-- ==== Sys2Proof/Word.lean ====
section
/-! DEFINITION. The word types of the IOVM core (spec 00_scope R6, R9): everything is an unsigned bit vector. -/

namespace Sys2Proof

/-- A byte of the program buffer, and every 8-bit register, operand and code. -/
abbrev Byte := BitVec 8

/-- A byte address in a memory target (`ADDR_W` = 24, R6). -/
abbrev Addr := BitVec 24

/-- An offset in the program buffer, and the procedure length (`OFFW` = 32, R6, R31). -/
abbrev Offset := BitVec 32

end Sys2Proof
end

