-- ==== Sys2Proof/Config.lean ====
section
/-! DEFINITION. What a build of the core fixes (spec 00_scope R2, R6). The spec leaves no value open that an instruction
computes, so there is no free value here. -/

namespace Sys2Proof

/-- `ISA_VARIANT` (R2): the opcode set a build implements. -/
inductive Variant where
  /-- The canonical 16-opcode encoding, normative. -/
  | c16
  /-- The minimal 4-opcode encoding, optional (46_minimal_variant). -/
  | m4
deriving DecidableEq, Repr

/-- The build the model resets to: the normative one (R2; log 1). -/
def Config.variant : Variant := .c16

/-- `UDW`, the width of the user-data slot: an open parameter with default 32 (R6; log 11: DESIGN CHOICE). -/
abbrev Config.udw : Nat := 32

/-- A value of the user-data slot. -/
abbrev UserData := BitVec Config.udw

end Sys2Proof
end

