-- ==== Sys2Proof/Syntax.lean ====
section
/-! DEFINITION. The instructions: one constructor for each row of spec/opcode_table.json, with the operands that the
instruction's bytes carry. The payload of a WRITE is no operand: its length is run-time state (30_encoding R98). -/

namespace Sys2Proof

/-- A channel, the field `cc` of the C16 instruction byte (30_encoding R90, R93; `NCH` = 4). -/
inductive Chan where
  | c0 | c1 | c2 | c3
deriving DecidableEq, Repr

/-- The 2-bit code of a channel. -/
def Chan.toBits : Chan → BitVec 2
  | .c0 => 0
  | .c1 => 1
  | .c2 => 2
  | .c3 => 3

/-- A comparison operator, the 3-bit field `q` (44_wait R200). -/
abbrev CmpOp := BitVec 3

/-- The instructions of both variants. -/
inductive Instr where
  /-- END; its channel field is ignored (R99). -/
  | endProc
  | seta8 (c : Chan) (imm : BitVec 8)
  | seta16 (c : Chan) (imm : BitVec 16)
  | seta24 (c : Chan) (imm : BitVec 24)
  | settv (c : Chan) (imm : BitVec 8)
  | setlen (c : Chan) (imm : BitVec 16)
  | setcmpmsk (c : Chan) (cmpv mskv : BitVec 8)
  | settim (c : Chan) (imm : BitVec 32)
  | read (c : Chan)
  | write (c : Chan)
  | waitWhileNeq (c : Chan)
  | waitWhileEq (c : Chan)
  | waitWhileLt (c : Chan)
  | waitWhileGt (c : Chan)
  | waitWhileLte (c : Chan)
  | waitWhileGte (c : Chan)
  /-- The M4 instructions; READ and WRITE ignore the field `q` (46_minimal_variant R231). -/
  | m4Read (chip : Byte) (address : Addr) (len : Byte)
  | m4Write (chip : Byte) (address : Addr) (len : Byte)
  | m4WaitUntil (q : CmpOp) (chip : Byte) (address : Addr) (value mask : Byte)
  | m4AbortUnless (q : CmpOp) (chip : Byte) (address : Addr) (value mask : Byte)
deriving DecidableEq, Repr

/-- The variant whose opcode table holds the instruction. -/
def Instr.variant : Instr → Variant
  | .endProc | .seta8 .. | .seta16 .. | .seta24 .. | .settv .. | .setlen .. | .setcmpmsk .. | .settim ..
  | .read .. | .write .. | .waitWhileNeq .. | .waitWhileEq .. | .waitWhileLt .. | .waitWhileGt ..
  | .waitWhileLte .. | .waitWhileGte .. => .c16
  | .m4Read .. | .m4Write .. | .m4WaitUntil .. | .m4AbortUnless .. => .m4

end Sys2Proof
end

