-- ==== Sys2Proof/WellFormed.lean ====
section
/-! DEFINITION. Which instructions a build can hold. Operand ranges are in the types of Syntax.lean, and no operand
value is ever rejected (30_encoding R100), so one check is left: a build implements exactly one variant (00_scope R2). -/

namespace Sys2Proof

/-- `i` is an instruction of a build of variant `v` (R2). -/
abbrev WellFormed (v : Variant) (i : Instr) : Prop := i.variant = v

end Sys2Proof
end

