-- ==== Sys2Proof/Decode.lean ====
section
/-! DEFINITION. Decoding (spec 30_encoding, 46_minimal_variant): total on any bytes, rejecting by name; then the
encoder, from the same tables; then the host's view of one table row as a number. -/

namespace Sys2Proof

/-- What the decoder makes of the bytes from `off` to the end of the buffer. -/
inductive Decoded where
  /-- An instruction, and the bytes after its operands. -/
  | instr (i : Instr) (rest : List Byte)
  /-- No byte is left: the buffer is exhausted (40_lifecycle R130). -/
  | noByte
  /-- Reserved bits of the instruction byte are not 0 (30_encoding R95, 46_minimal_variant R231). -/
  | unknownOpcode
  /-- The buffer ends inside the operands (30_encoding R97). -/
  | truncated
deriving DecidableEq, Repr

/-- The channel of a 2-bit code. -/
def Chan.ofBits (b : BitVec 2) : Chan :=
  if b = 0 then .c0 else if b = 1 then .c1 else if b = 2 then .c2 else .c3

/-! ## Operand assembly (30_encoding R92: the byte at the lower offset is the less significant) -/

/-- `b0 | b1 << 8`. -/
def le16 (b0 b1 : Byte) : BitVec 16 := b1 ++ b0

/-- `b0 | b1 << 8 | b2 << 16`. -/
def le24 (b0 b1 b2 : Byte) : BitVec 24 := b2 ++ (b1 ++ b0)

/-- `b0 | b1 << 8 | b2 << 16 | b3 << 24`. -/
def le32 (b0 b1 b2 b3 : Byte) : BitVec 32 := b3 ++ (b2 ++ (b1 ++ b0))

/-- Format F1: one operand byte (R91). -/
def operands1 (k : Byte → Instr) : List Byte → Decoded
  | b0 :: rest => .instr (k b0) rest
  | _ => .truncated

/-- Format F2: two operand bytes (R91). -/
def operands2 (k : Byte → Byte → Instr) : List Byte → Decoded
  | b0 :: b1 :: rest => .instr (k b0 b1) rest
  | _ => .truncated

/-- Format F3: three operand bytes (R91). -/
def operands3 (k : Byte → Byte → Byte → Instr) : List Byte → Decoded
  | b0 :: b1 :: b2 :: rest => .instr (k b0 b1 b2) rest
  | _ => .truncated

/-- Format F4: four operand bytes (R91). -/
def operands4 (k : Byte → Byte → Byte → Byte → Instr) : List Byte → Decoded
  | b0 :: b1 :: b2 :: b3 :: rest => .instr (k b0 b1 b2 b3) rest
  | _ => .truncated

/-- The M4 operands `chip, a_lo, a_hi, a_bank, len` (46_minimal_variant R232 to R234). -/
def operandsTransfer (k : Byte → Addr → Byte → Instr) : List Byte → Decoded
  | chip :: lo :: hi :: bank :: len :: rest => .instr (k chip (le24 lo hi bank) len) rest
  | _ => .truncated

/-- The M4 operands `chip, a_lo, a_hi, a_bank, value, mask` (46_minimal_variant R232, R235, R236). -/
def operandsTest (k : Byte → Addr → Byte → Byte → Instr) : List Byte → Decoded
  | chip :: lo :: hi :: bank :: value :: mask :: rest => .instr (k chip (le24 lo hi bank) value mask) rest
  | _ => .truncated

/-! ## The instruction byte -/

/-- The C16 instruction with opcode `o` and channel `c`: the opcode map (30_encoding R94). -/
def decodeOpcodeC16 (o : BitVec 4) (c : Chan) (ops : List Byte) : Decoded :=
  match o.toNat with
  | 0 => .instr .endProc ops
  | 1 => operands1 (fun b0 => .seta8 c b0) ops
  | 2 => operands2 (fun b0 b1 => .seta16 c (le16 b0 b1)) ops
  | 3 => operands3 (fun b0 b1 b2 => .seta24 c (le24 b0 b1 b2)) ops
  | 4 => operands1 (fun b0 => .settv c b0) ops
  | 5 => operands2 (fun b0 b1 => .setlen c (le16 b0 b1)) ops
  | 6 => operands2 (fun b0 b1 => .setcmpmsk c b0 b1) ops
  | 7 => operands4 (fun b0 b1 b2 b3 => .settim c (le32 b0 b1 b2 b3)) ops
  | 8 => .instr (.read c) ops
  | 9 => .instr (.write c) ops
  | 10 => .instr (.waitWhileNeq c) ops
  | 11 => .instr (.waitWhileEq c) ops
  | 12 => .instr (.waitWhileLt c) ops
  | 13 => .instr (.waitWhileGt c) ops
  | 14 => .instr (.waitWhileLte c) ops
  | _ => .instr (.waitWhileGte c) ops

/-- A C16 instruction byte `[--cc oooo]`: the reserved bits 7:6 must be 0 (30_encoding R90, R95). -/
def decodeByteC16 (ib : Byte) (ops : List Byte) : Decoded :=
  if ib.extractLsb' 6 2 = 0 then
    decodeOpcodeC16 (ib.extractLsb' 0 4) (Chan.ofBits (ib.extractLsb' 4 2)) ops
  else .unknownOpcode

/-- The M4 instruction with opcode `o` and operator `q` (46_minimal_variant R232). -/
def decodeOpcodeM4 (o : BitVec 2) (q : CmpOp) (ops : List Byte) : Decoded :=
  match o.toNat with
  | 0 => operandsTransfer (fun chip address len => .m4Read chip address len) ops
  | 1 => operandsTransfer (fun chip address len => .m4Write chip address len) ops
  | 2 => operandsTest (fun chip address value mask => .m4WaitUntil q chip address value mask) ops
  | _ => operandsTest (fun chip address value mask => .m4AbortUnless q chip address value mask) ops

/-- An M4 instruction byte: `q` in bits 4:2, the opcode in bits 1:0, the reserved bits 7:5 must be 0
(46_minimal_variant R231). -/
def decodeByteM4 (ib : Byte) (ops : List Byte) : Decoded :=
  if ib.extractLsb' 5 3 = 0 then decodeOpcodeM4 (ib.extractLsb' 0 2) (ib.extractLsb' 2 3) ops
  else .unknownOpcode

/-- The decoder of a build of variant `v`, on the bytes from the instruction byte on (30_encoding R96). -/
def decode (v : Variant) : List Byte → Decoded
  | [] => .noByte
  | ib :: ops =>
    match v with
    | .c16 => decodeByteC16 ib ops
    | .m4 => decodeByteM4 ib ops

/-! ## The encoder -/

/-- `MKINST(op, c)`, the C16 instruction byte (00_scope R13). -/
def mkinst (o : BitVec 4) (c : Chan) : Byte := (0 : BitVec 2) ++ (c.toBits ++ o)

/-- The M4 instruction byte. -/
def mkinstM4 (o : BitVec 2) (q : CmpOp) : Byte := (0 : BitVec 3) ++ (q ++ o)

/-- Byte `k` of an operand, byte 0 being the least significant. -/
def byteOf {w : Nat} (v : BitVec w) (k : Nat) : Byte := v.extractLsb' (8 * k) 8

/-- The bytes of an instruction, in buffer order, without a WRITE's payload. Ignored fields are encoded as 0, the
canonical spelling (R99, R233, R234). -/
def encode : Instr → List Byte
  | .endProc => [mkinst 0 .c0]
  | .seta8 c v => [mkinst 1 c, v]
  | .seta16 c v => [mkinst 2 c, byteOf v 0, byteOf v 1]
  | .seta24 c v => [mkinst 3 c, byteOf v 0, byteOf v 1, byteOf v 2]
  | .settv c v => [mkinst 4 c, v]
  | .setlen c v => [mkinst 5 c, byteOf v 0, byteOf v 1]
  | .setcmpmsk c cmpv mskv => [mkinst 6 c, cmpv, mskv]
  | .settim c v => [mkinst 7 c, byteOf v 0, byteOf v 1, byteOf v 2, byteOf v 3]
  | .read c => [mkinst 8 c]
  | .write c => [mkinst 9 c]
  | .waitWhileNeq c => [mkinst 10 c]
  | .waitWhileEq c => [mkinst 11 c]
  | .waitWhileLt c => [mkinst 12 c]
  | .waitWhileGt c => [mkinst 13 c]
  | .waitWhileLte c => [mkinst 14 c]
  | .waitWhileGte c => [mkinst 15 c]
  | .m4Read chip a len => [mkinstM4 0 0, chip, byteOf a 0, byteOf a 1, byteOf a 2, len]
  | .m4Write chip a len => [mkinstM4 1 0, chip, byteOf a 0, byteOf a 1, byteOf a 2, len]
  | .m4WaitUntil q chip a v k => [mkinstM4 2 q, chip, byteOf a 0, byteOf a 1, byteOf a 2, v, k]
  | .m4AbortUnless q chip a v k => [mkinstM4 3 q, chip, byteOf a 0, byteOf a 1, byteOf a 2, v, k]

/-- How many bytes the decoder takes for an instruction: the instruction byte and the operands, without a WRITE's
payload (30_encoding R91, 46_minimal_variant R233 to R236). -/
def instrSize : Instr → Nat
  | .endProc | .read _ | .write _ | .waitWhileNeq _ | .waitWhileEq _ | .waitWhileLt _ | .waitWhileGt _
  | .waitWhileLte _ | .waitWhileGte _ => 1
  | .seta8 .. | .settv .. => 2
  | .seta16 .. | .setlen .. | .setcmpmsk .. => 3
  | .seta24 .. => 4
  | .settim .. => 5
  | .m4Read .. | .m4Write .. => 6
  | .m4WaitUntil .. | .m4AbortUnless .. => 7

/-- The longest instruction, a WRITE's payload apart. -/
def maxInstrSize : Nat := 7

/-! ## The opcode table (30_encoding R94; spec/opcode_table.json): mask and match of the instruction byte -/

/-- The mask of a variant's instruction byte: the bits that select the row. -/
def opcodeMask : Variant → Byte
  | .c16 => 0xCF
  | .m4 => 0xE3

/-- The match value of an instruction's row. -/
def opcodeMatch : Instr → Byte
  | .endProc => 0x00
  | .seta8 .. => 0x01
  | .seta16 .. => 0x02
  | .seta24 .. => 0x03
  | .settv .. => 0x04
  | .setlen .. => 0x05
  | .setcmpmsk .. => 0x06
  | .settim .. => 0x07
  | .read .. => 0x08
  | .write .. => 0x09
  | .waitWhileNeq .. => 0x0A
  | .waitWhileEq .. => 0x0B
  | .waitWhileLt .. => 0x0C
  | .waitWhileGt .. => 0x0D
  | .waitWhileLte .. => 0x0E
  | .waitWhileGte .. => 0x0F
  | .m4Read .. => 0x00
  | .m4Write .. => 0x01
  | .m4WaitUntil .. => 0x02
  | .m4AbortUnless .. => 0x03

/-! ## One table row as a number -/

/-- The low `n` bytes of `w`, the least significant first. -/
def bytesOfWord : Nat → Nat → List Byte
  | 0, _ => []
  | n + 1, w => BitVec.ofNat 8 w :: bytesOfWord n (w / 256)

/-- The variant of an instruction given as `nbits` bits. The instruction bytes of M4 are instruction bytes of C16 too,
so a number alone does not tell; only a word longer than any C16 instruction (40 bits) is read as M4 (log 12). -/
def variantOfWidth (default : Variant) (nbits : Nat) : Variant := if nbits ≤ 40 then default else .m4

/-- The bytes of an instruction whose `nbits` low bits are `w` and whose other bits are 0. -/
def tableBytes (nbits w : Nat) : List Byte := bytesOfWord maxInstrSize (w % 2 ^ nbits)

/-- The instruction the decoder reads from the bytes of `w` (log 12). -/
def decodeTableWord (nbits w : Nat) : Option Instr :=
  match decode (variantOfWidth Config.variant nbits) (tableBytes nbits w) with
  | .instr i _ => some i
  | .noByte | .unknownOpcode | .truncated => none

end Sys2Proof
end

