-- ==== Sys2Proof/Machine/State.lean ====
section
/-! DEFINITION. The state of the core as plain data (spec 10_state), with the model's own three fields: where inside a
command the core stands, the host's inputs still to come, and what the core has driven out of its ports. -/

namespace Sys2Proof.Machine

/-! ## The register file (10_state R20, R21) -/

/-- The six registers of one channel (R21). -/
structure Channel where
  /-- `a[c]`, 24 bits; bits 31:24 of its slot are 0 at all times (R22; log 24). -/
  a : Addr
  /-- `tv[c]`: TARGET 5:0, UPD 6, ADV 7 (R23, R24). -/
  tv : BitVec 8
  /-- `len[c]`, 0..65536 (R25). -/
  len : BitVec 17
  /-- `cmp[c]` (R27). -/
  cmp : BitVec 8
  /-- `msk[c]` (R27). -/
  msk : BitVec 8
  /-- `tim[c]`, in host-defined ticks (R28). -/
  tim : BitVec 32
deriving DecidableEq, Repr

/-- The four channels of the register file (R20). -/
structure RegFile where
  c0 : Channel
  c1 : Channel
  c2 : Channel
  c3 : Channel
deriving DecidableEq, Repr

/-! ## Control and status state (10_state R36) -/

/-- The execution state `s` (R36), in the source's order. -/
inductive ExecState where
  | init | loaded | reset | executeNext | read | write | wait | ended | errored
deriving DecidableEq, Repr

/-! ## The operation records (10_state R41 to R43) -/

/-- `opstate` (R43). -/
inductive OpState where
  | init | cont | completed
deriving DecidableEq, Repr

/-- The READ operand record (R42). -/
structure ReadRec where
  opstate : OpState
  ch : Chan
  chip : Byte
  address : Addr
  lengthRaw : BitVec 16
  length : BitVec 17
  adv : Bool
  upd : Bool
deriving DecidableEq, Repr

/-- The WRITE operand record (R42). -/
structure WriteRec where
  opstate : OpState
  ch : Chan
  chip : Byte
  address : Addr
  lengthRaw : BitVec 16
  length : BitVec 17
  adv : Bool
  upd : Bool
  /-- Offset in the program buffer of the first payload byte. -/
  dataOffset : Offset
deriving DecidableEq, Repr

/-- The WAIT operand record (R42). -/
structure WaitRec where
  opstate : OpState
  ch : Chan
  chip : Byte
  address : Addr
  expectedValue : Byte
  mask : Byte
  /-- The operator of the completion test (44_wait R202). -/
  comparisonOperator : CmpOp
  timeout : BitVec 32
deriving DecidableEq, Repr

/-- `op`, the active operation (R41). -/
inductive Op where
  | idle
  | read (rd : ReadRec)
  | write (wr : WriteRec)
  | wait (wa : WaitRec)
deriving DecidableEq, Repr

/-! ## Where inside a command the core stands (log 3) -/

/-- The polarity of the ABORT unit (45_abort R221, R222). -/
inductive AbortPol where
  | abortUnless | abortIf
deriving DecidableEq, Repr

/-- The operands of an ABORT whose probe the host has not answered yet (45_abort R221). -/
structure ProbeRec where
  pol : AbortPol
  q : CmpOp
  chip : Byte
  address : Addr
  expected : Byte
  mask : Byte
deriving DecidableEq, Repr

/-- Who moves next. A command is one atomic transaction of the spec (00_scope R8); the model takes it in steps, and this
field says how far it has come. -/
inductive Phase where
  /-- No command is in progress: the host may issue one. -/
  | idle
  /-- `exec` is at the top of the decoder loop (40_lifecycle R129). -/
  | decoding
  /-- The core has invoked `HostOp` and waits for the host's answer (40_lifecycle R140). -/
  | inHostOp
  /-- The core has invoked `HostTryReadByte` and waits for the host's answer (45_abort R221). -/
  | inProbe (pr : ProbeRec)
  /-- The core has invoked `SendEnd` and waits for it to return (60_exceptions R259). -/
  | inSendEnd
deriving DecidableEq, Repr

/-! ## The ports (00_scope R7; log 4, log 5) -/

/-- The commands the host may issue at any time, from inside a callback too (40_lifecycle R145). -/
inductive PortCall where
  | getState
  | getUserdata
  | setUserdata (v : UserData)
deriving DecidableEq, Repr

/-- What the host may do while no command is in progress. -/
inductive Command where
  /-- The hardware reset input (70_reset_and_hazards R290). -/
  | hardwareReset
  | init
  /-- `load(proc, L_in)`; `proc` is the bytes the reference points at, or absent (40_lifecycle R121; log 6). -/
  | load (proc : Option (List Host.Cell)) (lIn : Offset)
  | execReset
  | exec
  | port (call : PortCall)
deriving DecidableEq, Repr

/-- One answer to `HostOp`: the calls made from inside the callback, then `opstate` and the result code
(40_lifecycle R141). -/
structure OpAnswer where
  calls : List PortCall
  opstate : OpState
  err : Byte
deriving DecidableEq, Repr

/-- One answer to `HostTryReadByte`: the calls made from inside, then the result code and the byte (45_abort R221). -/
structure ProbeAnswer where
  calls : List PortCall
  err : Byte
  byte : Byte
deriving DecidableEq, Repr

/-- The host's inputs still to come, in order, one list for each port. A list that is empty means that the host does
nothing there for the rest of the run (log 4, log 9). -/
structure HostInputs where
  commands : List Command
  opAnswers : List OpAnswer
  probeAnswers : List ProbeAnswer
  /-- For each return from `SendEnd`, the calls made from inside it. -/
  endReturns : List (List PortCall)
deriving DecidableEq, Repr

/-- What the core drives out of its ports. -/
inductive Event where
  /-- `HostOp` is invoked; the host sees this record (40_lifecycle R140, R145). -/
  | hostOp (op : Op)
  /-- `HostTryReadByte(chip, address)` is invoked (45_abort R221). -/
  | probe (chip : Byte) (address : Addr)
  /-- `SendEnd()` is invoked; the host reads `s`, `e` and `p` (60_exceptions R259). -/
  | sendEnd (st : ExecState) (e : Byte) (p : Offset)
  /-- A command returns this result code. -/
  | returned (code : Byte)
  /-- `get_state` returns `s` (40_lifecycle R123). -/
  | stateIs (st : ExecState)
  /-- `get_userdata` returns the slot (40_lifecycle R124). -/
  | userdataIs (v : UserData)
deriving DecidableEq, Repr

/-! ## The state -/

/-- The program buffer as data: cells in rising order of offset, none of them `00`; an offset that is not listed
holds `00` (log 6). Only offsets below `L` exist. -/
abbrev Memory := List Host.Cell

/-- The state of the machine. -/
structure State where
  /-- `ISA_VARIANT`, fixed when the core is built (00_scope R2; log 1). -/
  variant : Variant
  /-- The register file (10_state R20). -/
  regs : RegFile
  /-- `s` (R36). -/
  st : ExecState
  /-- `e`, the latched error code (R37). -/
  e : Byte
  /-- `proc_present` (R38). -/
  procPresent : Bool
  /-- The bytes of the procedure (R38, R44). -/
  buf : Memory
  /-- `L`, the procedure's length (R38). -/
  progLen : Offset
  /-- `off`, the offset of the next byte to fetch (R31). -/
  off : Offset
  /-- `p`, the offset of the current instruction (R33). -/
  p : Offset
  /-- `next_off` (R34). -/
  nextOff : Offset
  /-- `op` (R41). -/
  op : Op
  /-- `userdata` (R39). -/
  userdata : UserData
  /-- The model's own: where inside a command the core stands (log 3). -/
  phase : Phase
  /-- The model's own: the host's inputs still to come (log 4). -/
  host : HostInputs
  /-- The model's own: what the core has driven out of its ports, newest first (log 5). -/
  events : List Event
deriving DecidableEq, Repr

/-- The reasons the machine can stop with a fault. The errors of the spec are no faults of the model: they are
latched, a next state (60_exceptions R255). -/
inductive Fault where
  /-- Raised where an operation is resumed or answered (Machine/Commands.lean, Machine/Callbacks.lean) and `op` does
  not hold the record of the operation that `s` names (10_state R41). Safe: no reachable state is such (log 22). -/
  | operationRecordMissing
deriving DecidableEq, Repr

/-- The reasons the model can refuse. -/
inductive Refusal where
  /-- Raised by an arm of `exec` whose instruction has no meaning yet. Safe. No arm raises it. -/
  | notModelled (mnemonic : String)
deriving DecidableEq, Repr

/-- The registers of a channel after `init`: all 0, the mask 0xFF (10_state R27, R46). -/
def Channel.reset : Channel := { a := 0, tv := 0, len := 0, cmp := 0, msk := 0xFF, tim := 0 }

/-- The register file after `init` (R46). -/
def RegFile.reset : RegFile :=
  { c0 := Channel.reset, c1 := Channel.reset, c2 := Channel.reset, c3 := Channel.reset }

/-- A host that does nothing. -/
def HostInputs.none : HostInputs := { commands := [], opAnswers := [], probeAnswers := [], endReturns := [] }

/-- The machine right after the hardware reset (10_state R46, 70_reset_and_hazards R290); the model's own fields:
log 27. -/
def State.reset : State where
  variant := Config.variant
  regs := RegFile.reset
  st := .init
  e := 0
  procPresent := false
  buf := []
  progLen := 0
  off := 0
  p := 0
  nextOff := 0
  op := .idle
  userdata := 0
  phase := .idle
  host := HostInputs.none
  events := []

end Sys2Proof.Machine
end

