-- ==== Sys2Proof/Machine/Codes.lean ====
section
/-! DEFINITION. The numeric codes of the enumerations, as they stand at the ports (spec 10_state R36, R37, R42; these
codes are the spec's own choice, log 15). -/

namespace Sys2Proof.Machine

/-- The code of an execution state (R36). -/
def ExecState.code : ExecState → BitVec 4
  | .init => 0
  | .loaded => 1
  | .reset => 2
  | .executeNext => 3
  | .read => 4
  | .write => 5
  | .wait => 6
  | .ended => 7
  | .errored => 8

/-- The code of an `opstate` (R42). -/
def OpState.code : OpState → BitVec 2
  | .init => 0
  | .cont => 1
  | .completed => 2

/-! The error kinds (R37, 60_exceptions R250). A code is a byte, not a name of a closed list: a host may answer any
nonzero code and the core latches it as it is (40_lifecycle R141). -/

def ErrCode.success : Byte := 0
def ErrCode.outOfRange : Byte := 1
def ErrCode.invalidOperationForState : Byte := 2
def ErrCode.unknownOpcode : Byte := 3
def ErrCode.timedOut : Byte := 4
def ErrCode.aborted : Byte := 5
def ErrCode.memoryChipUndefined : Byte := 6
def ErrCode.memoryChipAddressOutOfRange : Byte := 7
def ErrCode.memoryChipNotReadable : Byte := 8
def ErrCode.memoryChipNotWritable : Byte := 9
def ErrCode.invalidMemoryAccess : Byte := 10

end Sys2Proof.Machine
end

