-- ==== Sys2Proof/Machine/Ops.lean ====
section
/-! DEFINITION. The named operations over the program buffer, the registers and the control state, the error latch
(the spec's trap entry) and `exec_reset` (its return) beside it. -/

namespace Sys2Proof.Machine

/-! ## The program buffer (10_state R44; log 6) -/

/-- What an offset that is not listed holds. -/
def Memory.unlisted : Byte := 0

/-- The byte at an offset. -/
def Memory.get : Memory → Nat → Byte
  | [], _ => Memory.unlisted
  | (k, v) :: m, a => if k = a then v else Memory.get m a

/-- The buffer with the byte at one offset replaced, in canonical form. -/
def Memory.put : Memory → Nat → Byte → Memory
  | [], a, b => if b = Memory.unlisted then [] else [(a, b)]
  | (k, v) :: m, a, b =>
    if a < k then (if b = Memory.unlisted then (k, v) :: m else (a, b) :: (k, v) :: m)
    else if a = k then (if b = Memory.unlisted then m else (a, b) :: m)
    else (k, v) :: Memory.put m a b

/-- The canonical form: offsets strictly rising, no cell that holds what an unlisted offset holds. -/
abbrev Memory.wf (m : Memory) : Prop :=
  m.Pairwise (fun x y => x.1 < y.1) ∧ ∀ c ∈ m, c.2 ≠ Memory.unlisted

/-- Bytes put one after another from an offset on. -/
def Memory.putBytes : Memory → Nat → List Byte → Memory
  | m, _, [] => m
  | m, a, b :: bs => Memory.putBytes (Memory.put m a b) (a + 1) bs

/-- The buffer that cells given in any order describe, as far as it lies below `bound`. -/
def Memory.ofCells (bound : Nat) : List Host.Cell → Memory
  | [] => []
  | (a, b) :: cells =>
    if a < bound then Memory.put (Memory.ofCells bound cells) a b else Memory.ofCells bound cells

/-- The cells below an offset. -/
def Memory.below (bound : Nat) (m : Memory) : Memory := m.filter (fun c => c.1 < bound)

/-- `n` bytes from an offset on. -/
def Memory.bytes (m : Memory) : Nat → Nat → List Byte
  | _, 0 => []
  | a, n + 1 => Memory.get m a :: Memory.bytes m (a + 1) n

/-- `m[i]`, which exists for `i < L` only (00_scope R11). -/
def State.byteAt (s : State) (i : Nat) : Option Byte :=
  if i < s.progLen.toNat then some (Memory.get s.buf i) else none

/-! ## The register file (10_state R20: only the channel named is touched) -/

/-- The registers of a channel. -/
def RegFile.get (r : RegFile) : Chan → Channel
  | .c0 => r.c0
  | .c1 => r.c1
  | .c2 => r.c2
  | .c3 => r.c3

/-- The register file with one channel replaced. -/
def RegFile.set (r : RegFile) (c : Chan) (v : Channel) : RegFile :=
  match c with
  | .c0 => { r with c0 := v }
  | .c1 => { r with c1 := v }
  | .c2 => { r with c2 := v }
  | .c3 => { r with c3 := v }

/-- The registers of channel `c`. -/
def State.chan (s : State) (c : Chan) : Channel := s.regs.get c

/-- The state with the registers of channel `c` replaced. -/
def State.setChan (s : State) (c : Chan) (v : Channel) : State := { s with regs := s.regs.set c v }

/-! ## Returning from a command -/

/-- A command returns a result code: the core is idle again. A rejection is this and nothing else
(00_scope R12, 60_exceptions R256). -/
def State.returnCode (s : State) (code : Byte) : State :=
  { s with phase := .idle, events := .returned code :: s.events }

/-- What `exec` returns in a terminal state: `e` in ERRORED, Success in ENDED (40_lifecycle R126). -/
def State.latchedResult (s : State) : Byte :=
  if s.st = .errored then s.e else ErrCode.success

/-! ## The end of a run -/

/-- `SendEnd()` is invoked (60_exceptions R259). -/
def State.sendEnd (s : State) : State :=
  { s with phase := .inSendEnd, events := .sendEnd s.st s.e s.p :: s.events }

/-- `s <- ENDED; SendEnd()` (40_lifecycle R130, 41_end_config R160). -/
def State.endRun (s : State) : State := State.sendEnd { s with st := .ended }

/-- `Latch(K)`, the meaning of `raise K`: `e <- K; s <- ERRORED; SendEnd()` (60_exceptions R255, 00_scope R12). It is
the core's one way to take an exception. -/
def State.latch (s : State) (k : Byte) : State := State.sendEnd { s with e := k, st := .errored }

/-- `exec_reset`, the return from an exception: back to RESET from LOADED, RESET, ENDED and ERRORED, rejected in INIT
and in flight; nothing but `s` is written (40_lifecycle R122, 60_exceptions R258). -/
def State.execReset (s : State) : State :=
  match s.st with
  | .loaded | .reset | .ended | .errored => State.returnCode { s with st := .reset } ErrCode.success
  | .init | .executeNext | .read | .write | .wait => s.returnCode ErrCode.invalidOperationForState

/-- `ZeroPerRun()` (10_state R40, 40_lifecycle R128). -/
def State.zeroPerRun (s : State) : State :=
  { s with off := 0, p := 0, nextOff := 0, e := ErrCode.success, op := .idle }

/-! ## Instructions and operations -/

/-- The decoder takes `n` bytes: `p <- off`, then the instruction byte and the operands are fetched
(10_state R32, R33; 30_encoding R97). -/
def State.beginInstr (s : State) (n : Nat) : State :=
  { s with p := s.off, off := s.off + BitVec.ofNat 32 n }

/-- `HostOp(kind)` is invoked with the active record (40_lifecycle R140). -/
def State.invokeHostOp (s : State) : State :=
  { s with phase := .inHostOp, events := .hostOp s.op :: s.events }

/-- Entering an I/O opcode: the record, `next_off` and `s` are written and `HostOp` is invoked once in the same `exec`
(40_lifecycle R132). -/
def State.enterOp (s : State) (op : Op) (nextOff : Offset) (st : ExecState) : State :=
  State.invokeHostOp { s with op := op, nextOff := nextOff, st := st }

/-- `HostTryReadByte(chip, address)` is invoked for an ABORT (45_abort R221). -/
def State.invokeProbe (s : State) (pr : ProbeRec) : State :=
  { s with phase := .inProbe pr, events := .probe pr.chip pr.address :: s.events }

/-- `op` holds the record of the operation that `s` names (10_state R41). -/
def Op.serves : Op → ExecState → Bool
  | .read _, .read => true
  | .write _, .write => true
  | .wait _, .wait => true
  | _, _ => false

/-- The record with `opstate` as the host's answer leaves it (40_lifecycle R140). -/
def Op.setOpstate : Op → OpState → Op
  | .idle, _ => .idle
  | .read rd, o => .read { rd with opstate := o }
  | .write wr, o => .write { wr with opstate := o }
  | .wait wa, o => .wait { wa with opstate := o }

/-- The state with the active record replaced. -/
def State.setOp (s : State) (op : Op) : State := { s with op := op }

/-- The write-back of an address at completion, modulo 2^24, under UPD (10_state R24, 42_read R182). -/
def State.writeBack (s : State) (upd : Bool) (c : Chan) (address : Addr) (length : BitVec 17) : State :=
  if upd then s.setChan c { s.chan c with a := address + length.setWidth 24 } else s

/-- What completion writes into the register file, by the kind of the operation (40_lifecycle R142; a WAIT writes no
register, 44_wait R211). -/
def State.writeBackOp (s : State) : State :=
  match s.op with
  | .read rd => s.writeBack rd.upd rd.ch rd.address rd.length
  | .write wr => s.writeBack wr.upd wr.ch wr.address wr.length
  | .wait _ | .idle => s

/-- `CompleteOp(); s <- EXECUTE_NEXT` (40_lifecycle R140, R142). -/
def State.completeOp (s : State) : State :=
  let t := s.writeBackOp
  { t with off := t.nextOff, op := .idle, st := .executeNext }

/-! ## Calls the host may make at any time (40_lifecycle R123, R124, R145) -/

/-- One call. Between commands it is a command of its own; from inside a callback it does not disturb the `exec` in
progress: the phase is not touched here. -/
def State.portCall (s : State) : PortCall → State
  | .getState => { s with events := .stateIs s.st :: s.events }
  | .getUserdata => { s with events := .userdataIs s.userdata :: s.events }
  | .setUserdata v => { s with userdata := v, events := .returned ErrCode.success :: s.events }

/-- Calls made one after another. -/
def State.portCalls (s : State) : List PortCall → State
  | [] => s
  | call :: calls => State.portCalls (s.portCall call) calls

end Sys2Proof.Machine
end

