-- ==== Sys2Proof/Machine/Operands.lean ====
section
/-! DEFINITION. The operand forms: the effective length, the fields of the target descriptor, and how an operand goes
into a register (spec 10_state R22 to R26, 30_encoding R92, 46_minimal_variant R233). -/

namespace Sys2Proof.Machine

/-- An operand zero-extended into the 24-bit address register (R22, R92). -/
def zext24 {w : Nat} (v : BitVec w) : Addr := v.setWidth 24

/-- The value SETLEN stores: the operand, 0 standing for 65536 (10_state R25, 41_end_config R165). -/
def lenOperand (v : BitVec 16) : BitVec 17 := if v = 0 then 65536 else v.setWidth 17

/-- `len[c][15:0]`, the raw length of a record (10_state R42). -/
def lenRaw (l : BitVec 17) : BitVec 16 := l.setWidth 16

/-- `EffLen`: 65536 where `len[c][15:0]` is 0 (10_state R26). -/
def effLen (l : BitVec 17) : BitVec 17 := if lenRaw l = 0 then 65536 else (lenRaw l).setWidth 17

/-- The length of an M4 transfer: the inline byte, 0 standing for 256 (46_minimal_variant R233). -/
def effLenM4 (l : Byte) : BitVec 17 := if l = 0 then 256 else l.setWidth 17

/-- `zext_8(tv[5:0])`, the memory-target identifier (10_state R24, R42). -/
def tvTarget (tv : BitVec 8) : Byte := (tv.extractLsb' 0 6).setWidth 8

/-- `UPD = tv[6]` (R24). -/
def tvUpd (tv : BitVec 8) : Bool := tv.getLsbD 6

/-- `ADV = tv[7]` (R24). -/
def tvAdv (tv : BitVec 8) : Bool := tv.getLsbD 7

end Sys2Proof.Machine
end

