-- ==== Sys2Proof/Machine/Flags.lean ====
section
/-! DEFINITION. The hardware has no flags (spec 10_state R35); this file holds what takes their place, the comparison
functions of the WAIT family and of ABORT (44_wait R200 to R203), which are also helpers for the host
(40_lifecycle R146). -/

namespace Sys2Proof.Machine

/-- `Cmp(q, x, y)`, the source's `memory_cmp`: unsigned; 6 and 7 are always false (R200). -/
def cmpBytes (q : CmpOp) (x y : Byte) : Bool :=
  if q = 0 then x = y
  else if q = 1 then x ≠ y
  else if q = 2 then x.toNat < y.toNat
  else if q = 3 then y.toNat ≤ x.toNat
  else if q = 4 then y.toNat < x.toNat
  else if q = 5 then x.toNat ≤ y.toNat
  else false

/-- `Cmp(q, b & mask, expected)`: only the byte read is masked (R201). -/
def maskedCmp (q : CmpOp) (b mask expected : Byte) : Bool := cmpBytes q (b &&& mask) expected

/-- `WaitTest(b)`, the source's `memory_wait_test_byte`, of a WAIT record: true means the wait is over (R202). -/
def WaitRec.test (wa : WaitRec) (b : Byte) : Bool := maskedCmp wa.comparisonOperator b wa.mask wa.expectedValue

/-- `WaitTest(b)` of the machine, defined while a WAIT is active (R202). -/
def State.waitTest (s : State) (b : Byte) : Option Bool :=
  match s.op with
  | .wait wa => some (wa.test b)
  | .idle | .read _ | .write _ => none

end Sys2Proof.Machine
end

