-- ==== Sys2Proof/Machine/Callbacks.lean ====
section
/-! DEFINITION. What the host's answers do: `ResumeOp` after `HostOp` (spec 40_lifecycle R140 to R143), the rest of an
ABORT after its probe (45_abort R221), and the return of `exec` after `SendEnd` (60_exceptions R255, R259). -/

namespace Sys2Proof.Machine

/-- The answer to `HostOp`: an error wins over `opstate` and is latched; COMPLETED completes the operation; anything
else leaves it in progress (R140, R141). -/
def State.answerOp (s : State) (ans : OpAnswer) : Host.Outcome State Fault Refusal :=
  let t := s.portCalls ans.calls
  if t.op.serves t.st then
    if ans.err ≠ ErrCode.success then .next (t.latch ans.err)
    else
      let u := t.setOp (t.op.setOpstate ans.opstate)
      if ans.opstate = .completed then .next (u.completeOp.returnCode ErrCode.success)
      else .next (u.returnCode ErrCode.success)
  else .fault .operationRecordMissing

/-- The abort condition (45_abort R221, R222). -/
def ProbeRec.aborts (pr : ProbeRec) (b : Byte) : Bool :=
  match pr.pol with
  | .abortUnless => !maskedCmp pr.q b pr.mask pr.expected
  | .abortIf => maskedCmp pr.q b pr.mask pr.expected

/-- The answer to the probe of an ABORT: its error first, then the comparison; without an abort the decoder loop goes
on in the same `exec` (R221). -/
def State.answerProbe (s : State) (pr : ProbeRec) (ans : ProbeAnswer) : State :=
  let t := s.portCalls ans.calls
  if ans.err ≠ ErrCode.success then t.latch ans.err
  else if pr.aborts ans.byte then t.latch ErrCode.aborted
  else { t with phase := .decoding }

/-- `SendEnd` returns: the core looks at no result, the record of a failed operation is gone (10_state R41,
42_read R183; log 10), and `exec` returns the latched result (60_exceptions R255). -/
def State.endReturned (s : State) (calls : List PortCall) : State :=
  let t := s.portCalls calls
  (t.setOp .idle).returnCode t.latchedResult

/-- The host's inputs without their first `HostOp` answer. -/
def State.dropOpAnswer (s : State) : State :=
  { s with host := { s.host with opAnswers := s.host.opAnswers.tail } }

/-- The host's inputs without their first probe answer. -/
def State.dropProbeAnswer (s : State) : State :=
  { s with host := { s.host with probeAnswers := s.host.probeAnswers.tail } }

/-- The host's inputs without their first return from `SendEnd`. -/
def State.dropEndReturn (s : State) : State :=
  { s with host := { s.host with endReturns := s.host.endReturns.tail } }

end Sys2Proof.Machine
end

