-- ==== Sys2Proof/Machine/Commands.lean ====
section
/-! DEFINITION. The host commands (spec 40_lifecycle R120 to R128). `exec` is only started here: a run of the decoder
loop is Cycle.lean's, the answer to a callback Callbacks.lean's. -/

namespace Sys2Proof.Machine

/-- Every piece of the spec's state takes its reset value (10_state R46). The build parameter, the host's inputs and
the record of outputs are not the core's state and stay. -/
def State.clear (s : State) : State :=
  { State.reset with variant := s.variant, host := s.host, events := s.events }

/-- `init` (R120): permitted in every state, no callback. -/
def State.initCommand (s : State) : State := s.clear.returnCode ErrCode.success

/-- `load(proc, L_in)` (R121): the state is checked before the reference. -/
def State.loadCommand (s : State) (proc : Option (List Host.Cell)) (lIn : Offset) : State :=
  if s.st = .init then
    match proc with
    | none => s.returnCode ErrCode.outOfRange
    | some cells =>
      State.returnCode
        { s with procPresent := true, buf := Memory.ofCells lIn.toNat cells, progLen := lIn, st := .loaded }
        ErrCode.success
  else s.returnCode ErrCode.invalidOperationForState

/-- `exec` at its start: the tests of R125 from top to bottom. -/
def State.startExec (s : State) : Host.Outcome State Fault Refusal :=
  match s.st with
  | .errored | .ended => .next (s.returnCode s.latchedResult)
  | .read | .write | .wait =>
    if s.op.serves s.st then .next s.invokeHostOp else .fault .operationRecordMissing
  | .init => .next (s.returnCode ErrCode.invalidOperationForState)
  | .loaded | .reset => .next { s.zeroPerRun with st := .executeNext, phase := .decoding }
  | .executeNext => .next { s with phase := .decoding }

/-- One command. -/
def State.runCommand (s : State) : Command → Host.Outcome State Fault Refusal
  | .hardwareReset => .next s.clear
  | .init => .next s.initCommand
  | .load proc lIn => .next (s.loadCommand proc lIn)
  | .execReset => .next s.execReset
  | .exec => s.startExec
  | .port call => .next (s.portCall call)

/-- The host's inputs without their first command. -/
def State.dropCommand (s : State) : State :=
  { s with host := { s.host with commands := s.host.commands.tail } }

end Sys2Proof.Machine
end

