-- ==== Sys2Proof/Machine/Transfer.lean ====
section
/-! DEFINITION. READ and WRITE (spec 42_read R180 to R184, 43_write R190 to R194): the entry of the operation, with the
first invocation of `HostOp`. What the host's answer does is in Callbacks.lean. -/

namespace Sys2Proof.Machine

/-- The record READ builds from a channel's registers (R180). -/
def readRecord (c : Chan) (r : Channel) : ReadRec where
  opstate := .init
  ch := c
  chip := tvTarget r.tv
  address := r.a
  lengthRaw := lenRaw r.len
  length := effLen r.len
  adv := tvAdv r.tv
  upd := tvUpd r.tv

/-- The record WRITE builds from a channel's registers; the payload starts at `dataOffset` (R190). -/
def writeRecord (c : Chan) (r : Channel) (dataOffset : Offset) : WriteRec where
  opstate := .init
  ch := c
  chip := tvTarget r.tv
  address := r.a
  lengthRaw := lenRaw r.len
  length := effLen r.len
  adv := tvAdv r.tv
  upd := tvUpd r.tv
  dataOffset := dataOffset

/-- Entering a READ: no byte follows the operands, `next_off <- off` (10_state R34, 42_read R180). -/
def State.enterRead (s : State) (rd : ReadRec) : State := s.enterOp (.read rd) s.off .read

/-- The payload of `length` bytes at `off` lies inside the buffer; the sum is not truncated (43_write R191; log 25). -/
def State.payloadFits (s : State) (length : BitVec 17) : Bool := s.off.toNat + length.toNat ≤ s.progLen.toNat

/-- Entering a WRITE: the payload is checked first, then `next_off <- off + length` (43_write R190, R191). -/
def State.enterWrite (s : State) (wr : WriteRec) : State :=
  if s.payloadFits wr.length then s.enterOp (.write wr) (s.off + wr.length.setWidth 32) .write
  else s.latch ErrCode.outOfRange

/-- READ (R180). -/
def execRead (c : Chan) (s : State) : Host.Outcome State Fault Refusal :=
  .next (s.enterRead (readRecord c (s.chan c)))

/-- WRITE (R190). -/
def execWrite (c : Chan) (s : State) : Host.Outcome State Fault Refusal :=
  .next (s.enterWrite (writeRecord c (s.chan c) s.off))

/-- Payload byte `i` of the active WRITE, as the host reads it through the payload window (20_memory R68). -/
def State.payloadByte (s : State) (i : Nat) : Option Byte :=
  match s.op with
  | .write wr => if i < wr.length.toNat then s.byteAt (wr.dataOffset.toNat + i) else none
  | .idle | .read _ | .wait _ => none

end Sys2Proof.Machine
end

