-- ==== Sys2Proof/Machine/Wait.lean ====
section
/-! DEFINITION. The WAIT family (spec 44_wait R203 to R213). The record holds the operator of the completion test, the
negation of the relation in the mnemonic (R203). -/

namespace Sys2Proof.Machine

/-- The record a WAIT builds from a channel's registers and its completion operator (R203). -/
def waitRecord (c : Chan) (r : Channel) (q : CmpOp) : WaitRec where
  opstate := .init
  ch := c
  chip := tvTarget r.tv
  address := r.a
  expectedValue := r.cmp
  mask := r.msk
  comparisonOperator := q
  timeout := r.tim

/-- Entering a WAIT: `next_off <- off` (R203). -/
def State.enterWait (s : State) (wa : WaitRec) : State := s.enterOp (.wait wa) s.off .wait

/-- WAIT_WHILE_NEQ completes on EQ (R204). -/
def execWaitWhileNeq (c : Chan) (s : State) : Host.Outcome State Fault Refusal :=
  .next (s.enterWait (waitRecord c (s.chan c) 0))

/-- WAIT_WHILE_EQ completes on NEQ (R205). -/
def execWaitWhileEq (c : Chan) (s : State) : Host.Outcome State Fault Refusal :=
  .next (s.enterWait (waitRecord c (s.chan c) 1))

/-- WAIT_WHILE_LT completes on NLT (R206). -/
def execWaitWhileLt (c : Chan) (s : State) : Host.Outcome State Fault Refusal :=
  .next (s.enterWait (waitRecord c (s.chan c) 3))

/-- WAIT_WHILE_GT completes on NGT (R207). -/
def execWaitWhileGt (c : Chan) (s : State) : Host.Outcome State Fault Refusal :=
  .next (s.enterWait (waitRecord c (s.chan c) 5))

/-- WAIT_WHILE_LTE completes on GT (R208). -/
def execWaitWhileLte (c : Chan) (s : State) : Host.Outcome State Fault Refusal :=
  .next (s.enterWait (waitRecord c (s.chan c) 4))

/-- WAIT_WHILE_GTE completes on LT (R209). -/
def execWaitWhileGte (c : Chan) (s : State) : Host.Outcome State Fault Refusal :=
  .next (s.enterWait (waitRecord c (s.chan c) 2))

end Sys2Proof.Machine
end

