-- ==== Sys2Proof/Machine/Minimal.lean ====
section
/-! DEFINITION. The instructions of the minimal variant M4 (spec 46_minimal_variant R230 to R237; log 2), whose
operands are all inline, and the entry of the ABORT unit (45_abort R220 to R224). -/

namespace Sys2Proof.Machine

/-- The record of an M4 READ (R233). -/
def readRecordM4 (chip : Byte) (address : Addr) (len : Byte) : ReadRec where
  opstate := .init
  ch := .c0
  chip := chip
  address := address
  lengthRaw := len.setWidth 16
  length := effLenM4 len
  adv := true
  upd := false

/-- The record of an M4 WRITE (R234). -/
def writeRecordM4 (chip : Byte) (address : Addr) (len : Byte) (dataOffset : Offset) : WriteRec where
  opstate := .init
  ch := .c0
  chip := chip
  address := address
  lengthRaw := len.setWidth 16
  length := effLenM4 len
  adv := true
  upd := false
  dataOffset := dataOffset

/-- The record of an M4 WAIT_UNTIL: the completion operator is `q` itself, and there is no timeout operand (R235). -/
def waitRecordM4 (q : CmpOp) (chip : Byte) (address : Addr) (value mask : Byte) : WaitRec where
  opstate := .init
  ch := .c0
  chip := chip
  address := address
  expectedValue := value
  mask := mask
  comparisonOperator := q
  timeout := 0

/-- M4 READ (R233). -/
def execM4Read (chip : Byte) (address : Addr) (len : Byte) (s : State) : Host.Outcome State Fault Refusal :=
  .next (s.enterRead (readRecordM4 chip address len))

/-- M4 WRITE (R234). -/
def execM4Write (chip : Byte) (address : Addr) (len : Byte) (s : State) : Host.Outcome State Fault Refusal :=
  .next (s.enterWrite (writeRecordM4 chip address len s.off))

/-- M4 WAIT_UNTIL (R235). -/
def execM4WaitUntil (q : CmpOp) (chip : Byte) (address : Addr) (value mask : Byte) (s : State) :
    Host.Outcome State Fault Refusal :=
  .next (s.enterWait (waitRecordM4 q chip address value mask))

/-- M4 ABORT_UNLESS: the probe is invoked; the host's answer decides (R236, 45_abort R221). -/
def execM4AbortUnless (q : CmpOp) (chip : Byte) (address : Addr) (value mask : Byte) (s : State) :
    Host.Outcome State Fault Refusal :=
  .next (s.invokeProbe
    { pol := .abortUnless, q := q, chip := chip, address := address, expected := value, mask := mask })

end Sys2Proof.Machine
end

