-- ==== Sys2Proof/Machine/Setup.lean ====
section
/-! DEFINITION. END and the seven configuration opcodes (spec 41_end_config R160 to R168). On entry `p` and `off` have
been moved by the decoder; a SET leaves the core in the decoder loop (40_lifecycle R131). -/

namespace Sys2Proof.Machine

/-- END (R160). -/
def execEndProc (s : State) : Host.Outcome State Fault Refusal := .next s.endRun

/-- SETA8 (R161): the whole register is replaced. -/
def execSeta8 (c : Chan) (imm : BitVec 8) (s : State) : Host.Outcome State Fault Refusal :=
  .next (s.setChan c { s.chan c with a := zext24 imm })

/-- SETA16 (R162): the whole register is replaced. -/
def execSeta16 (c : Chan) (imm : BitVec 16) (s : State) : Host.Outcome State Fault Refusal :=
  .next (s.setChan c { s.chan c with a := zext24 imm })

/-- SETA24 (R163). -/
def execSeta24 (c : Chan) (imm : BitVec 24) (s : State) : Host.Outcome State Fault Refusal :=
  .next (s.setChan c { s.chan c with a := zext24 imm })

/-- SETTV (R164). -/
def execSettv (c : Chan) (imm : BitVec 8) (s : State) : Host.Outcome State Fault Refusal :=
  .next (s.setChan c { s.chan c with tv := imm })

/-- SETLEN (R165). -/
def execSetlen (c : Chan) (imm : BitVec 16) (s : State) : Host.Outcome State Fault Refusal :=
  .next (s.setChan c { s.chan c with len := lenOperand imm })

/-- SETCMPMSK (R166). -/
def execSetcmpmsk (c : Chan) (cmpv mskv : BitVec 8) (s : State) : Host.Outcome State Fault Refusal :=
  .next (s.setChan c { s.chan c with cmp := cmpv, msk := mskv })

/-- SETTIM (R167). -/
def execSettim (c : Chan) (imm : BitVec 32) (s : State) : Host.Outcome State Fault Refusal :=
  .next (s.setChan c { s.chan c with tim := imm })

end Sys2Proof.Machine
end

