-- ==== Sys2Proof/Machine/Dispatch.lean ====
section
/-! DEFINITION. One arm for each instruction. -/

namespace Sys2Proof.Machine

def exec (i : Instr) (s : State) : Host.Outcome State Fault Refusal :=
  match i with
  | .endProc => Sys2Proof.Machine.execEndProc s
  | .seta8 c imm => Sys2Proof.Machine.execSeta8 c imm s
  | .seta16 c imm => Sys2Proof.Machine.execSeta16 c imm s
  | .seta24 c imm => Sys2Proof.Machine.execSeta24 c imm s
  | .settv c imm => Sys2Proof.Machine.execSettv c imm s
  | .setlen c imm => Sys2Proof.Machine.execSetlen c imm s
  | .setcmpmsk c cmpv mskv => Sys2Proof.Machine.execSetcmpmsk c cmpv mskv s
  | .settim c imm => Sys2Proof.Machine.execSettim c imm s
  | .read c => Sys2Proof.Machine.execRead c s
  | .write c => Sys2Proof.Machine.execWrite c s
  | .waitWhileNeq c => Sys2Proof.Machine.execWaitWhileNeq c s
  | .waitWhileEq c => Sys2Proof.Machine.execWaitWhileEq c s
  | .waitWhileLt c => Sys2Proof.Machine.execWaitWhileLt c s
  | .waitWhileGt c => Sys2Proof.Machine.execWaitWhileGt c s
  | .waitWhileLte c => Sys2Proof.Machine.execWaitWhileLte c s
  | .waitWhileGte c => Sys2Proof.Machine.execWaitWhileGte c s
  | .m4Read chip address len => Sys2Proof.Machine.execM4Read chip address len s
  | .m4Write chip address len => Sys2Proof.Machine.execM4Write chip address len s
  | .m4WaitUntil q chip address value mask => Sys2Proof.Machine.execM4WaitUntil q chip address value mask s
  | .m4AbortUnless q chip address value mask => Sys2Proof.Machine.execM4AbortUnless q chip address value mask s

end Sys2Proof.Machine
end

