-- ==== Sys2Proof/Machine/Cycle.lean ====
section
/-! DEFINITION. One step of the machine: one turn of the decoder loop (spec 40_lifecycle R129), one command, or one
answer of the host (00_scope R8), by the phase the core is in (log 3). -/

namespace Sys2Proof.Machine

/-- The bytes the decoder can see: from `off` to the end of the buffer, no more than an instruction needs. The list is
empty exactly when `off >= L`. -/
def State.window (s : State) : List Byte :=
  Memory.bytes s.buf s.off.toNat (min maxInstrSize (s.progLen.toNat - s.off.toNat))

/-- What the decoder finds at `off`. -/
def State.decoded (s : State) : Decoded := decode s.variant s.window

/-- One turn of the decoder loop (R129): the end of the buffer (R130), an unknown instruction byte (30_encoding R96) or
truncated operands (30_encoding R97), both with `off` left at `p + 1`, or an instruction. -/
def State.turn (s : State) : Host.Outcome State Fault Refusal :=
  match s.decoded with
  | .noByte => .next s.endRun
  | .unknownOpcode => .next ((s.beginInstr 1).latch ErrCode.unknownOpcode)
  | .truncated => .next ((s.beginInstr 1).latch ErrCode.outOfRange)
  | .instr i _ => exec i (s.beginInstr (instrSize i))

/-- The host moves: the next command, if there is one. -/
def State.idleMove (s : State) : Host.Outcome State Fault Refusal :=
  match s.host.commands with
  | [] => .next s
  | c :: _ => s.dropCommand.runCommand c

/-- The host answers `HostOp`, if it ever does. -/
def State.opMove (s : State) : Host.Outcome State Fault Refusal :=
  match s.host.opAnswers with
  | [] => .next s
  | ans :: _ => s.dropOpAnswer.answerOp ans

/-- The host answers the probe, if it ever does. -/
def State.probeMove (s : State) (pr : ProbeRec) : Host.Outcome State Fault Refusal :=
  match s.host.probeAnswers with
  | [] => .next s
  | ans :: _ => .next (s.dropProbeAnswer.answerProbe pr ans)

/-- The host returns from `SendEnd`, if it ever does. -/
def State.endMove (s : State) : Host.Outcome State Fault Refusal :=
  match s.host.endReturns with
  | [] => .next s
  | calls :: _ => .next (s.dropEndReturn.endReturned calls)

/-- One step, by the phase. -/
def State.cycle (s : State) : Host.Outcome State Fault Refusal :=
  match s.phase with
  | .idle => s.idleMove
  | .decoding => s.turn
  | .inHostOp => s.opMove
  | .inProbe pr => s.probeMove pr
  | .inSendEnd => s.endMove

/-- The longest instruction of all: a WRITE of 65536 payload bytes. -/
def longestInstr : Nat := 65537

/-- The state about to run, as the next turn of the decoder loop, the instruction of `nbits` bits `w` followed by
zeros: the buffer holds it at `off` and reaches as far as the longest instruction does (log 12). -/
def State.placeWord (s : State) (nbits w : Nat) : State :=
  { s with
    variant := variantOfWidth s.variant nbits
    st := .executeNext
    e := ErrCode.success
    procPresent := true
    buf := Memory.putBytes (Memory.below s.off.toNat s.buf) s.off.toNat (tableBytes nbits w)
    progLen := BitVec.ofNat 32 (min (s.off.toNat + longestInstr) (2 ^ 32 - 1))
    op := .idle
    phase := .decoding }

end Sys2Proof.Machine
end

