-- ==== Sys2Proof/Safety.lean ====
section
/-! DEFINITION. What holds of every state a run can reach, in the terms the claims use: the promises the spec makes
about its own state, written as one invariant, and the notions a claim about a run needs. -/

namespace Sys2Proof.Machine

/-- The states in which a run is in flight (00_scope R15). -/
def ExecState.inFlight : ExecState → Bool
  | .executeNext | .read | .write | .wait => true
  | .init | .loaded | .reset | .ended | .errored => false

/-- The terminal states (00_scope R15). -/
def ExecState.terminal : ExecState → Bool
  | .ended | .errored => true
  | .init | .loaded | .reset | .executeNext | .read | .write | .wait => false

/-- The states in which an operation is in progress (10_state R41). -/
def ExecState.inOperation : ExecState → Bool
  | .read | .write | .wait => true
  | .init | .loaded | .reset | .executeNext | .ended | .errored => false

/-- The buffer is in canonical form, holds nothing at or above `L`, and is present except in INIT (10_state R38). -/
def State.bufferOk (s : State) : Prop :=
  Memory.wf s.buf ∧ (∀ c ∈ s.buf, c.1 < s.progLen.toNat) ∧ (s.procPresent = false ↔ s.st = .init) ∧
    (s.procPresent = false → s.progLen = 0)

/-- `p <= off <= L` and `next_off <= L` (10_state R31, R33, R34). -/
def State.offsetsOk (s : State) : Prop :=
  s.p.toNat ≤ s.off.toNat ∧ s.off.toNat ≤ s.progLen.toNat ∧ s.nextOff.toNat ≤ s.progLen.toNat

/-- Every `len[c]` is in 0..65536 (10_state R25). -/
def State.lengthsOk (s : State) : Prop := ∀ c : Chan, (s.chan c).len.toNat ≤ 65536

/-- `e` is nonzero exactly in ERRORED, except in RESET, where it may still hold the old code (10_state R37). -/
def State.errorOk (s : State) : Prop :=
  (s.st = .errored → s.e ≠ 0) ∧ (s.st ≠ .errored → s.st ≠ .reset → s.e = 0)

/-- Where the core stands inside a command fits `s` (log 3). -/
def State.phaseOk (s : State) : Prop :=
  match s.phase with
  | .idle => True
  | .decoding => s.st = .executeNext
  | .inHostOp => s.st.inOperation
  | .inProbe _ => s.st = .executeNext ∧ s.variant = .m4
  | .inSendEnd => s.st.terminal

/-- A length and its raw form agree with the variant: 1..65536 in C16, 1..256 in M4 (10_state R42). -/
def lengthOk (v : Variant) (raw : BitVec 16) (length : BitVec 17) : Prop :=
  match v with
  | .c16 => length = if raw = 0 then 65536 else raw.setWidth 17
  | .m4 => raw.toNat < 256 ∧ length = if raw = 0 then 256 else raw.setWidth 17

/-- What a variant puts into a record: a 6-bit target in C16 (10_state R42); channel 0 and no write-back in M4
(46_minimal_variant R233). -/
def recordFits (v : Variant) (ch : Chan) (chip : Byte) (upd : Bool) : Prop :=
  match v with
  | .c16 => chip.toNat < 64
  | .m4 => ch = .c0 ∧ upd = false

/-- The record fits `s`, the variant and the offsets, and its `opstate` is INIT or CONTINUE (10_state R34, R41 to R43,
43_write R190). While `SendEnd` reports a failed operation the record is still there (42_read R183). -/
def State.recordOk (s : State) : Prop :=
  match s.op with
  | .idle => s.st.inOperation = false
  | .read rd =>
    (s.st = .read ∨ s.st = .errored ∧ s.phase = .inSendEnd) ∧ rd.opstate ≠ .completed ∧ s.nextOff = s.off ∧
      lengthOk s.variant rd.lengthRaw rd.length ∧ recordFits s.variant rd.ch rd.chip rd.upd
  | .write wr =>
    (s.st = .write ∨ s.st = .errored ∧ s.phase = .inSendEnd) ∧ wr.opstate ≠ .completed ∧ wr.dataOffset = s.off ∧
      s.nextOff.toNat = s.off.toNat + wr.length.toNat ∧
      lengthOk s.variant wr.lengthRaw wr.length ∧ recordFits s.variant wr.ch wr.chip wr.upd
  | .wait wa =>
    (s.st = .wait ∨ s.st = .errored ∧ s.phase = .inSendEnd) ∧ wa.opstate ≠ .completed ∧ s.nextOff = s.off ∧
      (s.variant = .c16 → wa.comparisonOperator.toNat < 6) ∧ recordFits s.variant wa.ch wa.chip false

/-- The invariant of the machine. -/
structure State.Inv (s : State) : Prop where
  buffer : s.bufferOk
  offsets : s.offsetsOk
  lengths : s.lengthsOk
  error : s.errorOk
  phase : s.phaseOk
  record : s.recordOk

/-! ## What stays the same -/

/-- The program is the same: the build, the buffer record and every byte of the buffer. -/
def SameProgram (s t : State) : Prop :=
  t.variant = s.variant ∧ t.procPresent = s.procPresent ∧ t.progLen = s.progLen ∧ t.buf = s.buf ∧
    ∀ i, t.byteAt i = s.byteAt i

/-- Every register of every channel is the same. -/
def SameRegisters (s t : State) : Prop := ∀ c, t.chan c = s.chan c

/-- Every register of every channel but `c` is the same. -/
def SameOtherChannels (c : Chan) (s t : State) : Prop := ∀ d, d ≠ c → t.chan d = s.chan d

/-- `off`, `p` and `next_off` are the same. -/
def SameCursor (s t : State) : Prop := t.off = s.off ∧ t.p = s.p ∧ t.nextOff = s.nextOff

/-- `s`, `e` and `op` are the same. -/
def SameControl (s t : State) : Prop := t.st = s.st ∧ t.e = s.e ∧ t.op = s.op

/-- `userdata` and the host's inputs are the same. -/
def SameHostSide (s t : State) : Prop := t.userdata = s.userdata ∧ t.host = s.host

/-- `SendEnd` is in progress in `t`, and when it returns, `exec` returns `code`. -/
def Concludes (code : Byte) (t : State) : Prop :=
  t.phase = .inSendEnd ∧ ∀ calls more, t.host.endReturns = calls :: more →
    ∃ u, step t = .next u ∧ u.phase = .idle ∧ u.events = .returned code :: (t.portCalls calls).events

/-- `t` is `s` with an error `k` latched: `e`, `s` and one `SendEnd` that shows them, after which `exec` returns `k`
(60_exceptions R255). -/
def Latched (k : Byte) (s t : State) : Prop :=
  t.e = k ∧ t.st = .errored ∧ t.events = .sendEnd .errored k t.p :: s.events ∧ Concludes k t

/-! ## What the decoder is about to meet -/

/-- The buffer holds these bytes from `off` on. -/
def State.Holds (s : State) (bs : List Byte) : Prop :=
  ∀ i (h : i < bs.length), s.byteAt (s.off.toNat + i) = some bs[i]

/-- The core stands at the top of the decoder loop in a build of variant `v`. -/
def State.AtDecoder (v : Variant) (s : State) : Prop := s.phase = .decoding ∧ s.variant = v

/-! ## What one instruction, one answer or one command does -/

/-- The machine at a SET whose `n` bytes are all in the buffer: one turn writes the channel as `f` says, moves `p` and
`off`, stays in the loop and changes nothing else. -/
def RunsAsSet (s : State) (c : Chan) (n : Nat) (f : Channel → Channel) : Prop :=
  ∃ t, step s = .next t ∧ t.chan c = f (s.chan c) ∧ SameOtherChannels c s t ∧ t.p = s.off ∧
    t.off.toNat = s.off.toNat + n ∧ t.nextOff = s.nextOff ∧ SameProgram s t ∧ SameControl s t ∧ SameHostSide s t ∧
    t.phase = .decoding ∧ t.events = s.events

/-- The machine at a SET whose `n` bytes are not all in the buffer: OutOfRange is latched and no register is written. -/
def FailsAsSet (s : State) (n : Nat) : Prop :=
  s.progLen.toNat < s.off.toNat + n →
    ∃ t, step s = .next t ∧ Latched ErrCode.outOfRange s t ∧ t.p = s.off ∧ t.off.toNat = s.off.toNat + 1 ∧
      t.nextOff = s.nextOff ∧ t.op = s.op ∧ SameRegisters s t ∧ SameProgram s t ∧ SameHostSide s t

/-- `t` is `s` with the operation `o` entered in state `x`: `op`, `next_off` and `s` are written, `HostOp` is invoked once
with the record, and nothing else changes. -/
def Enters (s t : State) (o : Op) (next : Nat) (x : ExecState) : Prop :=
  t.op = o ∧ t.nextOff.toNat = next ∧ t.st = x ∧ t.phase = .inHostOp ∧ t.events = .hostOp o :: s.events ∧
    t.off = s.off ∧ t.p = s.p ∧ t.e = s.e ∧ SameRegisters s t ∧ SameProgram s t ∧ SameHostSide s t

/-- The effective length of a channel: `len[c][15:0]`, 65536 for 0 (10_state R26: decision D5). -/
def channelLength (r : Channel) : Nat := if r.len.toNat % 65536 = 0 then 65536 else r.len.toNat % 65536

/-- `exec i s` enters a WAIT on channel `c` whose record holds the operator `q`, and whose `WaitTest` is `isOver`. -/
def EntersWait (i : Instr) (s : State) (c : Chan) (q : Nat) (isOver : Nat → Nat → Prop) : Prop :=
  ∃ t wa, exec i s = .next t ∧ Enters s t (.wait wa) s.off.toNat .wait ∧ wa.opstate = .init ∧ wa.ch = c ∧
    wa.chip.toNat = (s.chan c).tv.toNat % 64 ∧ wa.address = (s.chan c).a ∧ wa.expectedValue = (s.chan c).cmp ∧
    wa.mask = (s.chan c).msk ∧ wa.timeout = (s.chan c).tim ∧ wa.comparisonOperator.toNat = q ∧
    ∀ b : Byte, ∃ r, t.waitTest b = some r ∧ (r = true ↔ isOver (b &&& (s.chan c).msk).toNat (s.chan c).cmp.toNat)

/-- What every answer of the host leaves alone: the program, `p` and `next_off`; `userdata` is what the calls made from
inside the callback leave. -/
def FrameAnswer (s t : State) (calls : List PortCall) : Prop :=
  SameProgram s t ∧ t.p = s.p ∧ t.nextOff = s.nextOff ∧ t.userdata = (s.portCalls calls).userdata

/-- `s` is idle and the host's next command is `c`, then `cs`. -/
def Issues (s : State) (c : Command) (cs : List Command) : Prop := s.phase = .idle ∧ s.host.commands = c :: cs

/-- The step of `s` is a command that returns `code` and changes nothing: a rejection, or `exec` in a terminal state. -/
def OnlyReturns (s : State) (cs : List Command) (code : Byte) : Prop :=
  step s = .next { s with host := { s.host with commands := cs }, events := .returned code :: s.events }

/-! ## Runs -/

/-- `s` with `n` steps taken; a step that does not answer a next state ends it. -/
def runSteps : Nat → State → Option State
  | 0, s => some s
  | n + 1, s =>
    match step s with
    | .next t => runSteps n t
    | .fault _ | .refused _ => none

/-- How often `SendEnd` has been invoked. -/
def sendEnds : List Event → Nat
  | [] => 0
  | .sendEnd _ _ _ :: evs => sendEnds evs + 1
  | .hostOp _ :: evs | .probe _ _ :: evs | .returned _ :: evs | .stateIs _ :: evs | .userdataIs _ :: evs => sendEnds evs

/-- How often a callback that an operation unit makes (`HostOp` or `HostTryReadByte`) has been invoked. -/
def operationCalls : List Event → Nat
  | [] => 0
  | .hostOp _ :: evs | .probe _ _ :: evs => operationCalls evs + 1
  | .sendEnd _ _ _ :: evs | .returned _ :: evs | .stateIs _ :: evs | .userdataIs _ :: evs => operationCalls evs

end Sys2Proof.Machine
end

