-- ==== Sys2Proof/Certificates/Slice0/Obligations.lean ====
section
/-! DEFINITION. The statements about the machine, for the provers. Where a docstring names a log entry or a decision of
the spec (92_eei_decisions), the clause rests on that choice and not on a rule. The phases, the host's inputs and the
record of outputs in which the statements are written are the model's own (log 3, log 4, log 5). -/

open Sys2Proof Sys2Proof.Machine

/-! ## Reset and the invariant -/

/-- 10_state R46: what reset leaves. -/
def Obligations.ResetHoldsTheSpecValues : Prop :=
  State.reset.st = .init ∧ State.reset.e = 0 ∧ State.reset.procPresent = false ∧ State.reset.progLen = 0 ∧
  State.reset.off = 0 ∧ State.reset.p = 0 ∧ State.reset.nextOff = 0 ∧ State.reset.op = .idle ∧
  State.reset.userdata = 0 ∧ (∀ i, State.reset.byteAt i = none) ∧
  ∀ c, (State.reset.chan c).a = 0 ∧ (State.reset.chan c).tv = 0 ∧ (State.reset.chan c).len = 0 ∧
    (State.reset.chan c).cmp = 0 ∧ (State.reset.chan c).msk = 0xFF ∧ (State.reset.chan c).tim = 0

/-- The invariant holds at reset. -/
def Obligations.ResetMeetsTheInvariant : Prop := State.reset.Inv

/-- Every step keeps the invariant: the buffer's canonical form and bound, `p <= off <= L` and `next_off <= L`,
`len[c] <= 65536`, `e` against `s`, and the operand record against `s`, the offsets and the variant. -/
def Obligations.EveryStepKeepsTheInvariant : Prop :=
  ∀ s t : State, s.Inv → step s = .next t → t.Inv

/-- No state that meets the invariant stops the machine: every error of the spec is a next state. -/
def Obligations.NoStopUnderTheInvariant : Prop :=
  ∀ s : State, s.Inv → ∃ t, step s = .next t

/-- Any number of steps can be taken from a state that meets the invariant, and they all meet it. -/
def Obligations.RunsStayInsideTheInvariant : Prop :=
  ∀ (n : Nat) (s : State), s.Inv → ∃ t, runSteps n s = some t ∧ t.Inv

/-! ## Encoding -/

/-- Decoding what the encoder writes gives the instruction back, whatever bytes follow. -/
def Obligations.DecodeOfEncodeIsTheInstruction : Prop :=
  ∀ (v : Variant) (i : Instr) (rest : List Byte), WellFormed v i → decode v (encode i ++ rest) = .instr i rest

/-- What the decoder accepts: an instruction of the build, taken from as many bytes as its format has; the instruction
byte is one of its row of the opcode table, and the operand bytes are exactly those the encoder writes. -/
def Obligations.DecodeTakesExactlyOneInstruction : Prop :=
  ∀ (v : Variant) (bs rest : List Byte) (i : Instr), decode v bs = .instr i rest →
    WellFormed v i ∧ ∃ ib ops, bs = ib :: ops ++ rest ∧ (ib :: ops).length = instrSize i ∧
      ib &&& opcodeMask v = opcodeMatch i ∧ encode i = (encode i).headD 0 :: ops

/-- Decision D6 (30_encoding R95, 46_minimal_variant R231): an instruction byte is unknown exactly when it is 0x40 or
more in C16, 0x20 or more in M4, whatever follows it. -/
def Obligations.ReservedBitsAreUnknown : Prop :=
  ∀ (ib : Byte) (ops : List Byte),
    (decode .c16 (ib :: ops) = .unknownOpcode ↔ 64 ≤ ib.toNat) ∧
    (decode .m4 (ib :: ops) = .unknownOpcode ↔ 32 ≤ ib.toNat)

/-- Words of 95_test_vectors 2.1, 2.2 and 2.7, of its Part 1 (V3: 23 10 00 F5; V4: 39 AA 55) and of
46_minimal_variant R236 (07 00 10 00 7E 55 FF), one and more of every family. The M4 words rest on decision D26 (log
2), the unknown ones on D6 and the truncated one on D7 (log 18). -/
def Obligations.WordsOfTheSpecDecode : Prop :=
  decode .c16 [0x30] = .instr .endProc [] ∧
  decode .c16 [0x23, 0x10, 0x00, 0xF5] = .instr (.seta24 .c2 0xF50010) [] ∧
  decode .c16 [0x37, 0x78, 0x56, 0x34, 0x12] = .instr (.settim .c3 0x12345678) [] ∧
  decode .c16 [0x06, 0x12, 0x34] = .instr (.setcmpmsk .c0 0x12 0x34) [] ∧
  decode .c16 [0x28] = .instr (.read .c2) [] ∧
  decode .c16 [0x39, 0xAA, 0x55] = .instr (.write .c3) [0xAA, 0x55] ∧
  decode .c16 [0x2C] = .instr (.waitWhileLt .c2) [] ∧
  decode .c16 [0x3F] = .instr (.waitWhileGte .c3) [] ∧
  decode .c16 [0x48] = .unknownOpcode ∧
  decode .c16 [0x03, 0x10, 0x00] = .truncated ∧
  decode .m4 [0x00, 0x02, 0x10, 0x00, 0xF5, 0x00] = .instr (.m4Read 0x02 0xF50010 0x00) [] ∧
  decode .m4 [0x07, 0x00, 0x10, 0x00, 0x7E, 0x55, 0xFF] = .instr (.m4AbortUnless 1 0x00 0x7E0010 0x55 0xFF) [] ∧
  decode .m4 [0x20] = .unknownOpcode

/-! ## The decoder loop -/

/-- A step at the top of the decoder loop runs the decoded instruction, with `p` at its first byte and `off` moved
past its bytes. -/
def Obligations.StepRunsTheDecodedInstruction : Prop :=
  ∀ (s : State) (i : Instr) (rest : List Byte), s.phase = .decoding → decode s.variant s.window = .instr i rest →
    WellFormed s.variant i ∧
    step s = exec i { s with p := s.off, off := s.off + BitVec.ofNat 32 (instrSize i) }

/-- 40_lifecycle R130: at the end of the buffer the run ends, with one `SendEnd`, and `exec` returns Success; `e`
and `p` keep their values. Since `off <= L`, the test is `off = L`. -/
def Obligations.BufferExhaustionEndsTheRun : Prop :=
  ∀ s : State, s.phase = .decoding → s.progLen.toNat ≤ s.off.toNat →
    (s.Inv → s.off = s.progLen ∧ s.e = 0) ∧
    ∃ t, step s = .next t ∧ t.st = .ended ∧ Concludes 0 t ∧ t.events = .sendEnd .ended s.e s.p :: s.events ∧
      t.e = s.e ∧ t.op = s.op ∧ SameCursor s t ∧ SameRegisters s t ∧ SameProgram s t ∧ SameHostSide s t

/-- Decision D6 (30_encoding R95, R96): a byte with reserved bits raises UnknownOpcode (code 3: decision D9, log
15), with `p` at the byte and `off = p + 1`, also when it is the last byte of the buffer. -/
def Obligations.UnknownByteIsLatched : Prop :=
  ∀ (s : State) (ib : Byte), s.phase = .decoding → s.byteAt s.off.toNat = some ib →
    (s.variant = .c16 ∧ 64 ≤ ib.toNat ∨ s.variant = .m4 ∧ 32 ≤ ib.toNat) →
    ∃ t, step s = .next t ∧ Latched 3 s t ∧ t.p = s.off ∧ t.off.toNat = s.off.toNat + 1 ∧
      t.nextOff = s.nextOff ∧ t.op = s.op ∧ SameRegisters s t ∧ SameProgram s t ∧ SameHostSide s t

/-- Decision D7 (30_encoding R97, section 5; log 18): where the buffer ends inside the operands of an instruction,
whatever its ignored bits, OutOfRange (code 1: decision D9, log 15) is raised with `off = p + 1` and no register is
written. How many operand bytes an M4 instruction has is decision D26 (46_minimal_variant R232; log 2). -/
def Obligations.TruncatedOperandsAreLatched : Prop :=
  ∀ (s : State) (i : Instr) (ib : Byte) (ops : List Byte), s.phase = .decoding → WellFormed s.variant i →
    ib &&& opcodeMask s.variant = opcodeMatch i → s.Holds (ib :: ops) → (ib :: ops).length < instrSize i →
    s.progLen.toNat = s.off.toNat + (ib :: ops).length →
    ∃ t, step s = .next t ∧ Latched 1 s t ∧ t.p = s.off ∧ t.off.toNat = s.off.toNat + 1 ∧
      t.nextOff = s.nextOff ∧ t.op = s.op ∧ SameRegisters s t ∧ SameProgram s t ∧ SameHostSide s t

/-- 40_lifecycle R129: from any state at the top of the decoder loop that meets the invariant, the core leaves the
top of the loop within as many turns as bytes are left, and one more: for `SendEnd`, for `HostOp`, or in M4 for a
probe, after which the same loop may go on (45_abort R221). -/
def Obligations.DecoderLoopEnds : Prop :=
  ∀ s : State, s.Inv → s.phase = .decoding →
    ∃ n t, 1 ≤ n ∧ n ≤ s.progLen.toNat - s.off.toNat + 1 ∧ runSteps n s = some t ∧ t.phase ≠ .decoding

/-- 10_state R32, R33: a turn of the loop that does not end at the end of the buffer sets `p` to the old `off` and
moves `off` forward by at least the instruction byte, inside the buffer. -/
def Obligations.EveryTurnAdvancesTheCursor : Prop :=
  ∀ s t : State, s.Inv → s.phase = .decoding → step s = .next t →
    (s.off = s.progLen ∧ t.st = .ended ∧ SameCursor s t) ∨
    (t.p = s.off ∧ s.off.toNat < t.off.toNat ∧ t.off.toNat ≤ s.progLen.toNat)

/-- 10_state R32: how `off` moves outside the decoder: the completion of an operation sets it to `next_off`, which
never lies behind it; the start of a run and `init` set it to 0; nothing else writes it. -/
def Obligations.CursorMovesOnlyAtCompletionAndStart : Prop :=
  ∀ s t : State, s.Inv → s.phase ≠ .decoding → step s = .next t →
    t.off = s.off ∨
    (s.phase = .inHostOp ∧ t.st = .executeNext ∧ t.off = s.nextOff ∧ s.off.toNat ≤ s.nextOff.toNat) ∨
    (t.off = 0 ∧ s.phase = .idle ∧
      (s.host.commands.head? = some .exec ∧ (s.st = .loaded ∨ s.st = .reset) ∨
       s.host.commands.head? = some .init ∨ s.host.commands.head? = some .hardwareReset))

/-! ## END and the configuration opcodes -/

/-- 41_end_config R160: END, under each of its four instruction bytes, as the instruction and as a turn of the loop.
-/
def Obligations.EndEndsTheRun : Prop :=
  (∀ (c : Chan) (ops : List Byte), decode .c16 (mkinst 0 c :: ops) = .instr .endProc ops) ∧
  (∀ s : State, ∃ t, exec .endProc s = .next t ∧ t.st = .ended ∧ Concludes 0 t ∧
    t.events = .sendEnd .ended s.e s.p :: s.events ∧ t.e = s.e ∧ t.op = s.op ∧
    SameCursor s t ∧ SameRegisters s t ∧ SameProgram s t ∧ SameHostSide s t) ∧
  ∀ (s : State) (c : Chan), s.AtDecoder .c16 → s.Holds [mkinst 0 c] →
    ∃ t, step s = .next t ∧ t.st = .ended ∧ Concludes 0 t ∧ t.events = .sendEnd .ended s.e s.off :: s.events ∧
      t.e = s.e ∧ t.op = s.op ∧ t.p = s.off ∧ t.off.toNat = s.off.toNat + 1 ∧ t.nextOff = s.nextOff ∧
      SameRegisters s t ∧ SameProgram s t ∧ SameHostSide s t

/-- SETA8, SETA16 and SETA24 replace the whole of `a[c]` and change nothing else. -/
def Obligations.SetAddressCompletes : Prop :=
  ∀ (s : State) (c : Chan),
    (∀ imm : BitVec 8, ∃ t, exec (.seta8 c imm) s = .next t ∧ (t.chan c).a.toNat = imm.toNat ∧
      t.chan c = { s.chan c with a := (t.chan c).a } ∧ SameOtherChannels c s t ∧ SameProgram s t ∧ SameCursor s t ∧
      SameControl s t ∧ SameHostSide s t ∧ t.phase = s.phase ∧ t.events = s.events) ∧
    (∀ imm : BitVec 16, ∃ t, exec (.seta16 c imm) s = .next t ∧ (t.chan c).a.toNat = imm.toNat ∧
      t.chan c = { s.chan c with a := (t.chan c).a } ∧ SameOtherChannels c s t ∧ SameProgram s t ∧ SameCursor s t ∧
      SameControl s t ∧ SameHostSide s t ∧ t.phase = s.phase ∧ t.events = s.events) ∧
    (∀ imm : BitVec 24, ∃ t, exec (.seta24 c imm) s = .next t ∧ (t.chan c).a = imm ∧
      t.chan c = { s.chan c with a := (t.chan c).a } ∧ SameOtherChannels c s t ∧ SameProgram s t ∧ SameCursor s t ∧
      SameControl s t ∧ SameHostSide s t ∧ t.phase = s.phase ∧ t.events = s.events)

/-- SETTV stores all 8 bits in `tv[c]`; SETLEN stores its operand in `len[c]`, 65536 for 0; nothing else changes. -/
def Obligations.SetDescriptorAndLengthComplete : Prop :=
  ∀ (s : State) (c : Chan),
    (∀ imm : BitVec 8, ∃ t, exec (.settv c imm) s = .next t ∧ t.chan c = { s.chan c with tv := imm } ∧
      SameOtherChannels c s t ∧ SameProgram s t ∧ SameCursor s t ∧
      SameControl s t ∧ SameHostSide s t ∧ t.phase = s.phase ∧ t.events = s.events) ∧
    (∀ imm : BitVec 16, ∃ t, exec (.setlen c imm) s = .next t ∧
      (t.chan c).len.toNat = (if imm.toNat = 0 then 65536 else imm.toNat) ∧
      t.chan c = { s.chan c with len := (t.chan c).len } ∧
      SameOtherChannels c s t ∧ SameProgram s t ∧ SameCursor s t ∧
      SameControl s t ∧ SameHostSide s t ∧ t.phase = s.phase ∧ t.events = s.events)

/-- SETCMPMSK writes `cmp[c]` and `msk[c]` together, SETTIM writes `tim[c]`; nothing else changes. -/
def Obligations.SetComparisonAndTimeoutComplete : Prop :=
  ∀ (s : State) (c : Chan),
    (∀ cmpv mskv : BitVec 8, ∃ t, exec (.setcmpmsk c cmpv mskv) s = .next t ∧
      t.chan c = { s.chan c with cmp := cmpv, msk := mskv } ∧
      SameOtherChannels c s t ∧ SameProgram s t ∧ SameCursor s t ∧
      SameControl s t ∧ SameHostSide s t ∧ t.phase = s.phase ∧ t.events = s.events) ∧
    (∀ imm : BitVec 32, ∃ t, exec (.settim c imm) s = .next t ∧ t.chan c = { s.chan c with tim := imm } ∧
      SameOtherChannels c s t ∧ SameProgram s t ∧ SameCursor s t ∧
      SameControl s t ∧ SameHostSide s t ∧ t.phase = s.phase ∧ t.events = s.events)

/-- 41_end_config R161, R162, R163, from the bytes: the operand is little-endian and zero-extended. -/
def Obligations.SetAddressFromBytes : Prop :=
  ∀ (s : State) (c : Chan), s.AtDecoder .c16 →
    (s.Holds [mkinst 1 c] →
      (∀ b0, s.Holds [mkinst 1 c, b0] → RunsAsSet s c 2 (fun r => { r with a := BitVec.ofNat 24 b0.toNat })) ∧
      FailsAsSet s 2) ∧
    (s.Holds [mkinst 2 c] →
      (∀ b0 b1, s.Holds [mkinst 2 c, b0, b1] →
        RunsAsSet s c 3 (fun r => { r with a := BitVec.ofNat 24 (b0.toNat + 256 * b1.toNat) })) ∧
      FailsAsSet s 3) ∧
    (s.Holds [mkinst 3 c] →
      (∀ b0 b1 b2, s.Holds [mkinst 3 c, b0, b1, b2] →
        RunsAsSet s c 4 (fun r => { r with a := BitVec.ofNat 24 (b0.toNat + 256 * b1.toNat + 65536 * b2.toNat) })) ∧
      FailsAsSet s 4)

/-- 41_end_config R164, R165, from the bytes: a length operand of 0 stores 65536. -/
def Obligations.SetDescriptorAndLengthFromBytes : Prop :=
  ∀ (s : State) (c : Chan), s.AtDecoder .c16 →
    (s.Holds [mkinst 4 c] →
      (∀ b0, s.Holds [mkinst 4 c, b0] → RunsAsSet s c 2 (fun r => { r with tv := b0 })) ∧ FailsAsSet s 2) ∧
    (s.Holds [mkinst 5 c] →
      (∀ b0 b1, s.Holds [mkinst 5 c, b0, b1] →
        RunsAsSet s c 3 (fun r => { r with
          len := BitVec.ofNat 17 (if b0.toNat + 256 * b1.toNat = 0 then 65536 else b0.toNat + 256 * b1.toNat) })) ∧
      FailsAsSet s 3)

/-- 41_end_config R166, R167, from the bytes: the first operand byte of SETCMPMSK is the value, the second the mask.
-/
def Obligations.SetComparisonAndTimeoutFromBytes : Prop :=
  ∀ (s : State) (c : Chan), s.AtDecoder .c16 →
    (s.Holds [mkinst 6 c] →
      (∀ b0 b1, s.Holds [mkinst 6 c, b0, b1] → RunsAsSet s c 3 (fun r => { r with cmp := b0, msk := b1 })) ∧
      FailsAsSet s 3) ∧
    (s.Holds [mkinst 7 c] →
      (∀ b0 b1 b2 b3, s.Holds [mkinst 7 c, b0, b1, b2, b3] →
        RunsAsSet s c 5 (fun r => { r with
          tim := BitVec.ofNat 32 (b0.toNat + 256 * b1.toNat + 65536 * b2.toNat + 16777216 * b3.toNat) })) ∧
      FailsAsSet s 5)

/-! ## Entering an operation -/

/-- 42_read R180: READ builds its record from the channel's registers and invokes `HostOp` once. -/
def Obligations.ReadEntersTheOperation : Prop :=
  (∀ (c : Chan) (ops : List Byte), decode .c16 (mkinst 8 c :: ops) = .instr (.read c) ops) ∧
  ∀ (s : State) (c : Chan), ∃ t rd, exec (.read c) s = .next t ∧ Enters s t (.read rd) s.off.toNat .read ∧
    rd.opstate = .init ∧ rd.ch = c ∧ rd.chip.toNat = (s.chan c).tv.toNat % 64 ∧ rd.address = (s.chan c).a ∧
    rd.upd = (s.chan c).tv.getLsbD 6 ∧ rd.adv = (s.chan c).tv.getLsbD 7 ∧
    rd.lengthRaw.toNat = (s.chan c).len.toNat % 65536 ∧ rd.length.toNat = channelLength (s.chan c)

/-- 43_write R190: WRITE checks that its payload lies inside the buffer, then builds its record and invokes `HostOp`
once; a truncated payload raises OutOfRange and nothing else is written. -/
def Obligations.WriteEntersTheOperationOrFails : Prop :=
  (∀ (c : Chan) (ops : List Byte), decode .c16 (mkinst 9 c :: ops) = .instr (.write c) ops) ∧
  ∀ (s : State) (c : Chan),
    (s.off.toNat + channelLength (s.chan c) ≤ s.progLen.toNat →
      ∃ t wr, exec (.write c) s = .next t ∧
        Enters s t (.write wr) (s.off.toNat + channelLength (s.chan c)) .write ∧
        wr.opstate = .init ∧ wr.ch = c ∧ wr.chip.toNat = (s.chan c).tv.toNat % 64 ∧ wr.address = (s.chan c).a ∧
        wr.upd = (s.chan c).tv.getLsbD 6 ∧ wr.adv = (s.chan c).tv.getLsbD 7 ∧
        wr.lengthRaw.toNat = (s.chan c).len.toNat % 65536 ∧ wr.length.toNat = channelLength (s.chan c) ∧
        wr.dataOffset = s.off) ∧
    (s.progLen.toNat < s.off.toNat + channelLength (s.chan c) →
      ∃ t, exec (.write c) s = .next t ∧ Latched ErrCode.outOfRange s t ∧ SameCursor s t ∧ t.op = s.op ∧
        SameRegisters s t ∧ SameProgram s t ∧ SameHostSide s t)

/-- The WAITs on equality (44_wait R204, R205). That the record holds the operator of the completion test, and that
`WaitTest` true means that the wait is over, is decision D18 (R202, R203; log 20). -/
def Obligations.WaitOnEqualityEntersTheOperation : Prop :=
  (∀ (c : Chan) (ops : List Byte), decode .c16 (mkinst 10 c :: ops) = .instr (.waitWhileNeq c) ops ∧
    decode .c16 (mkinst 11 c :: ops) = .instr (.waitWhileEq c) ops) ∧
  ∀ (s : State) (c : Chan),
    EntersWait (.waitWhileNeq c) s c 0 (fun x y => x = y) ∧
    EntersWait (.waitWhileEq c) s c 1 (fun x y => x ≠ y)

/-- The WAITs on order (44_wait R206 to R209). That the order is unsigned is decision D19 (R200); that the record
holds the operator of the completion test, and that `WaitTest` true means that the wait is over, is D18 (R202, R203;
log 20). -/
def Obligations.WaitOnOrderEntersTheOperation : Prop :=
  (∀ (c : Chan) (ops : List Byte), decode .c16 (mkinst 12 c :: ops) = .instr (.waitWhileLt c) ops ∧
    decode .c16 (mkinst 13 c :: ops) = .instr (.waitWhileGt c) ops ∧
    decode .c16 (mkinst 14 c :: ops) = .instr (.waitWhileLte c) ops ∧
    decode .c16 (mkinst 15 c :: ops) = .instr (.waitWhileGte c) ops) ∧
  ∀ (s : State) (c : Chan),
    EntersWait (.waitWhileLt c) s c 3 (fun x y => x ≥ y) ∧
    EntersWait (.waitWhileGt c) s c 5 (fun x y => x ≤ y) ∧
    EntersWait (.waitWhileLte c) s c 4 (fun x y => x > y) ∧
    EntersWait (.waitWhileGte c) s c 2 (fun x y => x < y)

/-- Decisions D7, D26 (46_minimal_variant R233, R234; log 2): the M4 transfers take their operands inline, with UPD 0
and ADV 1, and a length byte of 0 stands for 256. -/
def Obligations.MinimalTransfersEnterTheOperation : Prop :=
  ∀ (s : State) (chip : Byte) (address : Addr) (len : Byte),
    (∃ t rd, exec (.m4Read chip address len) s = .next t ∧ Enters s t (.read rd) s.off.toNat .read ∧
      rd.opstate = .init ∧ rd.ch = .c0 ∧ rd.chip = chip ∧ rd.address = address ∧ rd.upd = false ∧ rd.adv = true ∧
      rd.lengthRaw.toNat = len.toNat ∧ rd.length.toNat = (if len.toNat = 0 then 256 else len.toNat)) ∧
    (s.off.toNat + (if len.toNat = 0 then 256 else len.toNat) ≤ s.progLen.toNat →
      ∃ t wr, exec (.m4Write chip address len) s = .next t ∧
        Enters s t (.write wr) (s.off.toNat + (if len.toNat = 0 then 256 else len.toNat)) .write ∧
        wr.opstate = .init ∧ wr.ch = .c0 ∧ wr.chip = chip ∧ wr.address = address ∧ wr.upd = false ∧ wr.adv = true ∧
        wr.lengthRaw.toNat = len.toNat ∧ wr.length.toNat = (if len.toNat = 0 then 256 else len.toNat) ∧
        wr.dataOffset = s.off) ∧
    (s.progLen.toNat < s.off.toNat + (if len.toNat = 0 then 256 else len.toNat) →
      ∃ t, exec (.m4Write chip address len) s = .next t ∧ Latched ErrCode.outOfRange s t ∧ SameCursor s t ∧
        t.op = s.op ∧ SameRegisters s t ∧ SameProgram s t ∧ SameHostSide s t)

/-- Decision D26 (46_minimal_variant R235; log 2): the M4 WAIT_UNTIL stores its own operator and a timeout of 0. -/
def Obligations.MinimalWaitEntersTheOperation : Prop :=
  ∀ (s : State) (q : CmpOp) (chip : Byte) (address : Addr) (value mask : Byte),
    ∃ t wa, exec (.m4WaitUntil q chip address value mask) s = .next t ∧ Enters s t (.wait wa) s.off.toNat .wait ∧
      wa.opstate = .init ∧ wa.ch = .c0 ∧ wa.chip = chip ∧ wa.address = address ∧ wa.expectedValue = value ∧
      wa.mask = mask ∧ wa.comparisonOperator = q ∧ wa.timeout = 0 ∧
      ∀ b : Byte, t.waitTest b = some (cmpBytes q (b &&& mask) value)

/-- Decision D26 (46_minimal_variant R236; log 2): ABORT_UNLESS makes exactly one probe and writes no state of the
spec; it stays inside the decoder loop's `exec` until the host answers. -/
def Obligations.MinimalAbortProbesOnce : Prop :=
  ∀ (s : State) (q : CmpOp) (chip : Byte) (address : Addr) (value mask : Byte),
    ∃ t, exec (.m4AbortUnless q chip address value mask) s = .next t ∧
      t.phase = .inProbe
        { pol := .abortUnless, q := q, chip := chip, address := address, expected := value, mask := mask } ∧
      t.events = .probe chip address :: s.events ∧ SameCursor s t ∧ SameControl s t ∧ SameRegisters s t ∧
      SameProgram s t ∧ SameHostSide s t

/-! ## The host's answers -/

/-- The answer to `HostOp`: `ResumeOp` and `CompleteOp` (40_lifecycle R140, R142; decisions D14, D15, D16 of R141
and R143, log 19; D2, D3, D4, log 16). An error is latched, whatever `opstate` says, and nothing is written back;
COMPLETED completes the operation; anything else leaves it in progress. -/
def Obligations.HostOpAnswerResumesTheOperation : Prop :=
  ∀ (s : State) (ans : OpAnswer) (more : List OpAnswer), s.phase = .inHostOp → s.host.opAnswers = ans :: more →
    s.op.serves s.st →
    ∃ t, step s = .next t ∧ FrameAnswer s t ans.calls ∧ t.host = { s.host with opAnswers := more } ∧
      (ans.err ≠ 0 → Latched ans.err (s.portCalls ans.calls) t ∧ t.off = s.off ∧ t.op = s.op ∧ SameRegisters s t) ∧
      (ans.err = 0 → ans.opstate = .completed →
        t.st = .executeNext ∧ t.op = .idle ∧ t.off = s.nextOff ∧ t.e = s.e ∧ t.phase = .idle ∧
        t.events = .returned 0 :: (s.portCalls ans.calls).events ∧
        (∀ rd, s.op = .read rd →
          (t.chan rd.ch = if rd.upd then { s.chan rd.ch with a := (BitVec.ofNat 24 (rd.address.toNat + rd.length.toNat)) }
            else s.chan rd.ch) ∧ SameOtherChannels rd.ch s t) ∧
        (∀ wr, s.op = .write wr →
          (t.chan wr.ch = if wr.upd then { s.chan wr.ch with a := (BitVec.ofNat 24 (wr.address.toNat + wr.length.toNat)) }
            else s.chan wr.ch) ∧ SameOtherChannels wr.ch s t) ∧
        (∀ wa, s.op = .wait wa → SameRegisters s t)) ∧
      (ans.err = 0 → ans.opstate ≠ .completed →
        t.op = s.op.setOpstate ans.opstate ∧ t.st = s.st ∧ t.off = s.off ∧ t.e = s.e ∧ t.phase = .idle ∧
        t.events = .returned 0 :: (s.portCalls ans.calls).events ∧ SameRegisters s t)

/-- 42_read R181, from the answer: a READ with UPD that completes increases `a[c]` by exactly the transfer length
modulo 2^24; `len[c]` and `tv[c]` are never changed; an answer that is neither COMPLETED nor an error changes
`rd.opstate` alone. Each `exec` while `s = READ` invokes `HostOp` once. -/
def Obligations.ReadProgressAndCompletion : Prop :=
  ∀ (s : State) (rd : ReadRec), s.st = .read → s.op = .read rd →
    (s.phase = .idle → ∀ cs, s.host.commands = .exec :: cs →
      step s = .next { s with
        phase := .inHostOp, host := { s.host with commands := cs },
        events := .hostOp (.read rd) :: s.events }) ∧
    (s.phase = .inHostOp → ∀ ans more, s.host.opAnswers = ans :: more → ans.err = 0 →
      ∃ t, step s = .next t ∧ FrameAnswer s t ans.calls ∧ t.host = { s.host with opAnswers := more } ∧ t.e = s.e ∧
        t.events = .returned 0 :: (s.portCalls ans.calls).events ∧ t.phase = .idle ∧
        (∀ c, (t.chan c).len = (s.chan c).len ∧ (t.chan c).tv = (s.chan c).tv) ∧
        (ans.opstate = .completed →
          (rd.upd = true → t.chan rd.ch = { s.chan rd.ch with a := (t.chan rd.ch).a } ∧
            (t.chan rd.ch).a.toNat = (rd.address.toNat + rd.length.toNat) % 2 ^ 24) ∧
          (rd.upd = false → SameRegisters s t) ∧ SameOtherChannels rd.ch s t ∧
          t.off = s.nextOff ∧ t.op = .idle ∧ t.st = .executeNext) ∧
        (ans.opstate ≠ .completed →
          t.op = .read { rd with opstate := ans.opstate } ∧ SameRegisters s t ∧ t.off = s.off ∧ t.st = .read))

/-- 44_wait R211: while `s = WAIT` each `exec` invokes `HostOp` once; a WAIT writes no register, whatever the host
answers and whatever the descriptor says. -/
def Obligations.WaitProgressAndCompletion : Prop :=
  ∀ (s : State) (wa : WaitRec), s.st = .wait → s.op = .wait wa →
    (s.phase = .idle → ∀ cs, s.host.commands = .exec :: cs →
      step s = .next { s with
        phase := .inHostOp, host := { s.host with commands := cs },
        events := .hostOp (.wait wa) :: s.events }) ∧
    (s.phase = .inHostOp → ∀ ans more, s.host.opAnswers = ans :: more →
      ∃ t, step s = .next t ∧ SameRegisters s t ∧ FrameAnswer s t ans.calls ∧
        t.host = { s.host with opAnswers := more } ∧
        (ans.err = 0 → ans.opstate = .completed →
          t.off = s.nextOff ∧ t.op = .idle ∧ t.st = .executeNext ∧ t.e = s.e ∧
          t.phase = .idle ∧ t.events = .returned 0 :: (s.portCalls ans.calls).events) ∧
        (ans.err = 0 → ans.opstate ≠ .completed →
          t.off = s.off ∧ t.op = .wait { wa with opstate := ans.opstate } ∧ t.st = .wait ∧ t.e = s.e ∧
          t.phase = .idle ∧ t.events = .returned 0 :: (s.portCalls ans.calls).events))

/-- 43_write R192 (decision D3): the completion of a WRITE moves `off` past the payload, which is never decoded, and
adds the length to `a[c]` under UPD; in a state that meets the invariant `off` becomes `data_offset + length`. -/
def Obligations.WriteCompletionSkipsThePayload : Prop :=
  ∀ (s : State) (wr : WriteRec) (ans : OpAnswer) (more : List OpAnswer), s.Inv → s.phase = .inHostOp →
    s.op = .write wr → s.host.opAnswers = ans :: more → ans.err = 0 → ans.opstate = .completed →
    ∃ t, step s = .next t ∧ t.off.toNat = wr.dataOffset.toNat + wr.length.toNat ∧ t.off.toNat ≤ t.progLen.toNat ∧
      t.st = .executeNext ∧ t.op = .idle ∧ SameOtherChannels wr.ch s t ∧
      (t.chan wr.ch).a.toNat =
        if wr.upd then (wr.address.toNat + wr.length.toNat) % 2 ^ 24 else (s.chan wr.ch).a.toNat

/-- A transfer that the host completes at its first invocation (source property 6, 95_test_vectors P6): under UPD the
address register grows by exactly the transfer length, modulo 2^24 (decisions D2, D3, D4); READ leaves `off`, WRITE
moves it past the payload; `exec` returns Success in EXECUTE_NEXT. -/
def Obligations.TransferCompletedAtOnceAdvancesTheAddress : Prop :=
  ∀ (s : State) (c : Chan) (ans : OpAnswer) (more : List OpAnswer), s.host.opAnswers = ans :: more → ans.err = 0 →
    ans.opstate = .completed →
    (∃ t u, exec (.read c) s = .next t ∧ step t = .next u ∧ u.off = s.off ∧ u.st = .executeNext ∧ u.phase = .idle ∧
      u.op = .idle ∧ u.events.head? = some (.returned 0) ∧ SameOtherChannels c s u ∧
      u.chan c = { s.chan c with a := (u.chan c).a } ∧
      (u.chan c).a.toNat = (if (s.chan c).tv.getLsbD 6 then ((s.chan c).a.toNat + channelLength (s.chan c)) % 2 ^ 24
        else (s.chan c).a.toNat)) ∧
    (s.off.toNat + channelLength (s.chan c) ≤ s.progLen.toNat →
      ∃ t u, exec (.write c) s = .next t ∧ step t = .next u ∧
        u.off.toNat = s.off.toNat + channelLength (s.chan c) ∧ u.st = .executeNext ∧ u.phase = .idle ∧
        u.op = .idle ∧ u.events.head? = some (.returned 0) ∧ SameOtherChannels c s u ∧
        u.chan c = { s.chan c with a := (u.chan c).a } ∧
        (u.chan c).a.toNat = (if (s.chan c).tv.getLsbD 6 then ((s.chan c).a.toNat + channelLength (s.chan c)) % 2 ^ 24
          else (s.chan c).a.toNat))

/-- 20_memory R68: every payload byte of a WRITE in progress exists, in buffer order, and there is no other. -/
def Obligations.PayloadLiesInsideTheBuffer : Prop :=
  ∀ (s : State) (wr : WriteRec), s.Inv → s.op = .write wr → ∀ i,
    (i < wr.length.toNat → wr.dataOffset.toNat + i < s.progLen.toNat ∧
      s.payloadByte i = s.byteAt (wr.dataOffset.toNat + i) ∧ (s.payloadByte i).isSome) ∧
    (wr.length.toNat ≤ i → s.payloadByte i = none)

/-- 45_abort R221, for both polarities: one probe, and the answer to it. Its error is latched first; then an ABORT
whose condition holds latches Aborted; otherwise the decoder loop goes on in the same `exec` and nothing is written.
-/
def Obligations.ProbeAnswerDecidesTheAbort : Prop :=
  (∀ (s : State) (pr : ProbeRec), (s.invokeProbe pr).phase = .inProbe pr ∧
    (s.invokeProbe pr).events = .probe pr.chip pr.address :: s.events ∧ SameCursor s (s.invokeProbe pr) ∧
    SameControl s (s.invokeProbe pr) ∧ SameRegisters s (s.invokeProbe pr) ∧ SameProgram s (s.invokeProbe pr) ∧
    SameHostSide s (s.invokeProbe pr)) ∧
  ∀ (s : State) (pr : ProbeRec) (ans : ProbeAnswer) (more : List ProbeAnswer), s.phase = .inProbe pr →
    s.host.probeAnswers = ans :: more →
    ∃ t, step s = .next t ∧ FrameAnswer s t ans.calls ∧ t.host = { s.host with probeAnswers := more } ∧
      t.off = s.off ∧ t.op = s.op ∧ SameRegisters s t ∧
      (ans.err ≠ 0 → Latched ans.err (s.portCalls ans.calls) t) ∧
      (ans.err = 0 →
        ((pr.pol = .abortUnless ∧ cmpBytes pr.q (ans.byte &&& pr.mask) pr.expected = false ∨
          pr.pol = .abortIf ∧ cmpBytes pr.q (ans.byte &&& pr.mask) pr.expected = true) →
          Latched ErrCode.aborted (s.portCalls ans.calls) t) ∧
        ((pr.pol = .abortUnless ∧ cmpBytes pr.q (ans.byte &&& pr.mask) pr.expected = true ∨
          pr.pol = .abortIf ∧ cmpBytes pr.q (ans.byte &&& pr.mask) pr.expected = false) →
          t.phase = .decoding ∧ t.st = s.st ∧ t.e = s.e ∧ t.events = (s.portCalls ans.calls).events))

/-- Decision D26 (46_minimal_variant R236; log 2): an ABORT_UNLESS whose probe succeeds goes on, writing nothing, if
the comparison holds of the masked byte, and is Aborted if it does not; a failed probe is latched as it is. -/
def Obligations.AbortUnlessGoesOnOrAborts : Prop :=
  ∀ (s : State) (q : CmpOp) (chip : Byte) (address : Addr) (value mask : Byte) (ans : ProbeAnswer)
    (more : List ProbeAnswer), s.host.probeAnswers = ans :: more →
    ∃ t u, exec (.m4AbortUnless q chip address value mask) s = .next t ∧ step t = .next u ∧ SameCursor s u ∧
      SameRegisters s u ∧ SameProgram s u ∧ u.op = s.op ∧
      (ans.err = 0 → cmpBytes q (ans.byte &&& mask) value = true →
        u.phase = .decoding ∧ u.st = s.st ∧ u.e = s.e) ∧
      (ans.err = 0 → cmpBytes q (ans.byte &&& mask) value = false →
        u.phase = .inSendEnd ∧ u.st = .errored ∧ u.e = ErrCode.aborted) ∧
      (ans.err ≠ 0 → u.phase = .inSendEnd ∧ u.st = .errored ∧ u.e = ans.err)

/-- Decision D32 (60_exceptions R255) and log 10: when `SendEnd` returns, `exec` returns `e` in ERRORED and Success in
ENDED; the record is gone; nothing else of the core changes. -/
def Obligations.SendEndReturnGivesTheLatchedResult : Prop :=
  ∀ (s : State) (calls : List PortCall) (more : List (List PortCall)), s.phase = .inSendEnd →
    s.host.endReturns = calls :: more →
    ∃ t, step s = .next t ∧ FrameAnswer s t calls ∧ t.off = s.off ∧ t.st = s.st ∧ t.e = s.e ∧ t.op = .idle ∧
      SameRegisters s t ∧ t.phase = .idle ∧ t.host = { s.host with endReturns := more } ∧
      t.events = .returned (if s.st = .errored then s.e else 0) :: (s.portCalls calls).events

/-! ## Comparisons -/

/-- Decision D19 (44_wait R200): the eight values of `q`, unsigned. -/
def Obligations.ComparisonTable : Prop :=
  ∀ x y : Byte,
    (cmpBytes 0 x y = true ↔ x.toNat = y.toNat) ∧ (cmpBytes 1 x y = true ↔ x.toNat ≠ y.toNat) ∧
    (cmpBytes 2 x y = true ↔ x.toNat < y.toNat) ∧ (cmpBytes 3 x y = true ↔ x.toNat ≥ y.toNat) ∧
    (cmpBytes 4 x y = true ↔ x.toNat > y.toNat) ∧ (cmpBytes 5 x y = true ↔ x.toNat ≤ y.toNat) ∧
    cmpBytes 6 x y = false ∧ cmpBytes 7 x y = false

/-- 45_abort R222: ABORT_IF(q) is ABORT_UNLESS of the negated operator, for `q <= 5`; for 6 and 7 ABORT_UNLESS always
aborts and ABORT_IF never does (R223). -/
def Obligations.AbortPolaritiesAgree : Prop :=
  ∀ (pr : ProbeRec) (b : Byte),
    (pr.q.toNat ≤ 5 → ({ pr with pol := .abortIf }).aborts b = ({ pr with pol := .abortUnless, q := pr.q ^^^ 1 }).aborts b) ∧
    (6 ≤ pr.q.toNat → ({ pr with pol := .abortUnless }).aborts b = true ∧ ({ pr with pol := .abortIf }).aborts b = false)

/-! ## Commands -/

/-- Decisions D33 and D12 (40_lifecycle R126, R127): `exec` in a terminal state returns the latched result, and in
INIT it is rejected; it makes no callback, latches nothing and changes nothing. The codes it returns are those of
decision D9 (10_state R37); the codes of `s` and `opstate` beside them are D8 and D10 (R36, R42; log 15). -/
def Obligations.ExecWithoutARunOnlyReturns : Prop :=
  (∀ (s : State) (cs : List Command), Issues s .exec cs →
    (s.st = .errored → OnlyReturns s cs s.e) ∧ (s.st = .ended → OnlyReturns s cs 0) ∧
    (s.st = .init → OnlyReturns s cs 2)) ∧
  [ErrCode.success, ErrCode.outOfRange, ErrCode.invalidOperationForState, ErrCode.unknownOpcode, ErrCode.timedOut,
    ErrCode.aborted, ErrCode.memoryChipUndefined, ErrCode.memoryChipAddressOutOfRange, ErrCode.memoryChipNotReadable,
    ErrCode.memoryChipNotWritable, ErrCode.invalidMemoryAccess].map BitVec.toNat = [0, 1, 2, 3, 4, 5, 6, 7, 8, 9, 10] ∧
  [ExecState.init, .loaded, .reset, .executeNext, .read, .write, .wait, .ended, .errored].map (fun x => x.code.toNat) =
    [0, 1, 2, 3, 4, 5, 6, 7, 8] ∧
  [OpState.init, .cont, .completed].map (fun x => x.code.toNat) = [0, 1, 2]

/-- 40_lifecycle R128: `exec` in LOADED or RESET zeroes the per-run state and goes on into the decoder loop in
EXECUTE_NEXT; the registers, the buffer record and `userdata` are kept. -/
def Obligations.ExecStartsARun : Prop :=
  ∀ (s : State) (cs : List Command), Issues s .exec cs → s.st = .loaded ∨ s.st = .reset →
    ∃ t, step s = .next t ∧ t.st = .executeNext ∧ t.phase = .decoding ∧ t.off = 0 ∧ t.p = 0 ∧ t.nextOff = 0 ∧
      t.e = 0 ∧ t.op = .idle ∧ SameRegisters s t ∧ SameProgram s t ∧ t.userdata = s.userdata ∧ t.events = s.events ∧
      t.host = { s.host with commands := cs }

/-- 40_lifecycle R125: `exec` in EXECUTE_NEXT enters the decoder loop as it stands; in READ, WRITE and WAIT it invokes
`HostOp` once with the record as the host's last answer left it. -/
def Obligations.ExecGoesOnWithARun : Prop :=
  ∀ (s : State) (cs : List Command), Issues s .exec cs →
    (s.st = .executeNext → step s = .next { s with phase := .decoding, host := { s.host with commands := cs } }) ∧
    (s.st.inOperation → s.op.serves s.st →
      step s = .next { s with
        phase := .inHostOp, host := { s.host with commands := cs },
        events := .hostOp s.op :: s.events })

/-- Decision D11 (40_lifecycle R122): `exec_reset` moves LOADED, RESET, ENDED and ERRORED to RESET, writing nothing
but `s`, and is rejected in every other state. -/
def Obligations.ExecResetReturnsToReset : Prop :=
  ∀ (s : State) (cs : List Command), Issues s .execReset cs →
    (s.st = .init ∨ s.st.inFlight → OnlyReturns s cs ErrCode.invalidOperationForState) ∧
    (¬(s.st = .init ∨ s.st.inFlight) →
      step s = .next { s with
        st := .reset, host := { s.host with commands := cs },
        events := .returned 0 :: s.events })

/-- Decision D23 (40_lifecycle R121; log 6): `load` is rejected outside INIT, then for an absent buffer (D12; the
codes 2 and 1 are D9, log 15); otherwise it records the buffer, whose bytes below `L` are the bytes given. -/
def Obligations.LoadRecordsTheBuffer : Prop :=
  ∀ (s : State) (cs : List Command) (proc : Option (List Host.Cell)) (lIn : Offset), Issues s (.load proc lIn) cs →
    (s.st ≠ .init → OnlyReturns s cs 2) ∧
    (s.st = .init → proc = none → OnlyReturns s cs 1) ∧
    (s.st = .init → ∀ cells, proc = some cells →
      ∃ t, step s = .next t ∧ t.st = .loaded ∧ t.procPresent = true ∧ t.progLen = lIn ∧
        (∀ i, t.byteAt i = if i < lIn.toNat then some (Memory.get cells i) else none) ∧
        t.e = s.e ∧ t.op = s.op ∧ SameCursor s t ∧ SameRegisters s t ∧ t.variant = s.variant ∧
        t.userdata = s.userdata ∧ t.phase = .idle ∧ t.events = .returned 0 :: s.events ∧
        t.host = { s.host with commands := cs })

/-- 40_lifecycle R120: `init` in every state gives every piece of state its reset value, with no callback, and
nothing else leads back to INIT (but the hardware reset, which does the same: decision D20). The build and the
host's inputs are not the core's state. -/
def Obligations.InitResetsEverything : Prop :=
  (∀ (s : State) (cs : List Command), Issues s .init cs →
    step s = .next { State.reset with
      variant := s.variant, host := { s.host with commands := cs },
      events := .returned 0 :: s.events }) ∧
  ∀ s t : State, step s = .next t → t.st = .init →
    s.st = .init ∨ s.phase = .idle ∧
      (s.host.commands.head? = some .init ∨ s.host.commands.head? = some .hardwareReset)

/-- Decision D20 (70_reset_and_hazards R290; log 13): the hardware reset input does what `init` does, and returns no
code. -/
def Obligations.HardwareResetIsInit : Prop :=
  ∀ (s : State) (cs : List Command), Issues s .hardwareReset cs →
    step s = .next { State.reset with variant := s.variant, host := { s.host with commands := cs }, events := s.events }

/-- 40_lifecycle R123, R124: `get_state`, `get_userdata` and `set_userdata`, permitted in every state, between
commands and from inside a callback: any calls, one after another, do what each does, and the step that takes the
callback's answer makes the calls that came with it. -/
def Obligations.PortCallsReadAndWriteTheSlot : Prop :=
  (∀ (s : State) (cs : List Command), Issues s (.port .getState) cs →
    step s = .next { s with host := { s.host with commands := cs }, events := .stateIs s.st :: s.events }) ∧
  (∀ (s : State) (cs : List Command), Issues s (.port .getUserdata) cs →
    step s = .next { s with host := { s.host with commands := cs }, events := .userdataIs s.userdata :: s.events }) ∧
  (∀ (s : State) (cs : List Command) (v : UserData), Issues s (.port (.setUserdata v)) cs →
    step s = .next { s with
      host := { s.host with commands := cs }, userdata := v,
      events := .returned 0 :: s.events }) ∧
  (∀ s : State, s.portCalls [] = s ∧ ∀ calls : List PortCall,
    s.portCalls (.getState :: calls) = State.portCalls { s with events := .stateIs s.st :: s.events } calls ∧
    s.portCalls (.getUserdata :: calls) =
      State.portCalls { s with events := .userdataIs s.userdata :: s.events } calls ∧
    (∀ v, s.portCalls (.setUserdata v :: calls) =
      State.portCalls { s with userdata := v, events := .returned 0 :: s.events } calls) ∧
    SameProgram s (s.portCalls calls) ∧ SameRegisters s (s.portCalls calls) ∧ SameCursor s (s.portCalls calls) ∧
    SameControl s (s.portCalls calls) ∧ (s.portCalls calls).phase = s.phase ∧ (s.portCalls calls).host = s.host) ∧
  (∀ (s t : State) (calls : List PortCall), step s = .next t →
    (s.phase = .inHostOp ∧ s.host.opAnswers.head?.map OpAnswer.calls = some calls ∨
      (∃ pr, s.phase = .inProbe pr) ∧ s.host.probeAnswers.head?.map ProbeAnswer.calls = some calls ∨
      s.phase = .inSendEnd ∧ s.host.endReturns.head? = some calls) →
    t.userdata = (s.portCalls calls).userdata ∧ (s.portCalls calls).events <:+ t.events)

/-! ## The whole machine -/

/-- 60_exceptions R259: `SendEnd` is invoked exactly at each transition of `s` into ENDED or ERRORED. -/
def Obligations.SendEndExactlyAtTheEnd : Prop :=
  ∀ s t : State, s.Inv → step s = .next t →
    sendEnds t.events = sendEnds s.events + (if s.st.terminal = false ∧ t.st.terminal = true then 1 else 0)

/-- 60_exceptions R254 and decision D32 (R255): errors are precise. A step that latches an error writes no register,
no byte of the buffer and no earlier record; `e` is an error code; in the decoder `p` is the failing instruction
byte, and in an answer of the host the cursor and the record stay as they are. -/
def Obligations.ErrorsArePrecise : Prop :=
  ∀ s t : State, s.Inv → step s = .next t → s.st ≠ .errored → t.st = .errored →
    t.e ≠ 0 ∧ t.phase = .inSendEnd ∧ SameRegisters s t ∧ SameProgram s t ∧ t.nextOff = s.nextOff ∧ t.op = s.op ∧
      t.events.head? = some (.sendEnd .errored t.e t.p) ∧
      (s.phase = .decoding → t.p = s.off ∧ s.off.toNat < t.off.toNat ∧ t.userdata = s.userdata) ∧
      (s.phase ≠ .decoding → t.p = s.p ∧ t.off = s.off)

/-- 40_lifecycle R144, step by step: every change of `s`, with what makes it. No other change exists; so the state
never returns to INIT without a fresh `init` or the hardware reset (95_test_vectors P2). -/
def Obligations.EveryChangeOfTheExecutionState : Prop :=
  ∀ s t : State, s.Inv → step s = .next t → t.st ≠ s.st →
    (s.phase = .idle ∧ ∃ c, s.host.commands.head? = some c ∧
      (((c = .init ∨ c = .hardwareReset) ∧ t.st = .init) ∨
       ((∃ cells lIn, c = .load (some cells) lIn) ∧ s.st = .init ∧ t.st = .loaded) ∨
       (c = .execReset ∧ (s.st = .loaded ∨ s.st.terminal) ∧ t.st = .reset) ∨
       (c = .exec ∧ (s.st = .loaded ∨ s.st = .reset) ∧ t.st = .executeNext))) ∨
    (s.phase = .decoding ∧ s.st = .executeNext ∧ (t.st.terminal ∨ t.st.inOperation)) ∨
    (s.phase = .inHostOp ∧ s.st.inOperation ∧ (t.st = .executeNext ∨ t.st = .errored)) ∨
    ((∃ pr, s.phase = .inProbe pr) ∧ s.st = .executeNext ∧ t.st = .errored)

/-- 10_state R38: the buffer record is set by `load`, cleared by `init`, and constant in between. -/
def Obligations.BufferRecordIsConstantBetweenLoadAndInit : Prop :=
  ∀ s t : State, step s = .next t →
    SameProgram s t ∨
    (t.procPresent = true ∧ s.st = .init ∧ ∃ cells lIn, s.host.commands.head? = some (.load (some cells) lIn) ∧
      t.progLen = lIn ∧ ∀ i, t.byteAt i = if i < lIn.toNat then some (Memory.get cells i) else none) ∨
    (t.procPresent = false ∧ t.progLen = 0 ∧ (∀ i, t.byteAt i = none) ∧
      (s.host.commands.head? = some .init ∨ s.host.commands.head? = some .hardwareReset))

/-- The registers are written by the procedure alone (60_exceptions R262): a step that changes one is a turn of the
decoder loop, the completion of an operation, or `init`. -/
def Obligations.OnlyTheProcedureWritesRegisters : Prop :=
  ∀ s t : State, step s = .next t →
    SameRegisters s t ∨ s.phase = .decoding ∨ (s.phase = .inHostOp ∧ t.st = .executeNext) ∨
    (s.phase = .idle ∧ t.regs = RegFile.reset ∧
      (s.host.commands.head? = some .init ∨ s.host.commands.head? = some .hardwareReset))

/-- An instruction touches at most the channel its channel field names (10_state R20), and no byte of the buffer. -/
def Obligations.InstructionsTouchOneChannel : Prop :=
  ∀ (i : Instr) (s t : State), exec i s = .next t →
    SameProgram s t ∧ SameHostSide s t ∧ t.off = s.off ∧ t.p = s.p ∧
      ∀ d : Chan, t.chan d = s.chan d ∨
        ((encode i).headD 0).extractLsb' 4 2 = d.toBits ∧ i.variant = .c16 ∧ 1 ≤ (opcodeMatch i).toNat ∧
          (opcodeMatch i).toNat ≤ 7

/-- In M4 no step but a reset writes the register file (10_state R30; log 23). -/
def Obligations.MinimalVariantLeavesTheRegisters : Prop :=
  ∀ s t : State, s.Inv → s.variant = .m4 → step s = .next t →
    SameRegisters s t ∨
      (s.phase = .idle ∧ (s.host.commands.head? = some .init ∨ s.host.commands.head? = some .hardwareReset))

/-- The build never changes at run time (00_scope R2: decision D1; log 1). -/
def Obligations.VariantNeverChanges : Prop :=
  ∀ s t : State, step s = .next t → t.variant = s.variant

/-- `userdata` is written by `set_userdata` and by `init` alone (10_state R39): a step of the decoder loop, and a step
whose calls hold no `set_userdata`, leave it. -/
def Obligations.UserdataIsTheHosts : Prop :=
  ∀ s t : State, step s = .next t → t.userdata ≠ s.userdata →
    (s.phase = .idle ∧ (s.host.commands.head? = some .init ∨ s.host.commands.head? = some .hardwareReset ∨
      s.host.commands.head? = some (.port (.setUserdata t.userdata)))) ∨
    (s.phase = .inHostOp ∧ ∃ ans, s.host.opAnswers.head? = some ans ∧ .setUserdata t.userdata ∈ ans.calls) ∨
    ((∃ pr, s.phase = .inProbe pr) ∧
      ∃ ans, s.host.probeAnswers.head? = some ans ∧ .setUserdata t.userdata ∈ ans.calls) ∨
    (s.phase = .inSendEnd ∧ ∃ calls, s.host.endReturns.head? = some calls ∧ .setUserdata t.userdata ∈ calls)

/-- At most one callback of an operation unit is made by a step; one that is made leaves the core waiting for its
answer; and the answer to `HostOp` makes none, but returns from `exec` or ends the run (40_lifecycle R129, R140). -/
def Obligations.OneCallbackForOneInvocation : Prop :=
  ∀ s t : State, step s = .next t →
    (operationCalls t.events = operationCalls s.events ∨
      (operationCalls t.events = operationCalls s.events + 1 ∧
        (t.phase = .inHostOp ∨ ∃ pr, t.phase = .inProbe pr))) ∧
    (s.phase = .inHostOp → s.host.opAnswers ≠ [] →
      operationCalls t.events = operationCalls s.events ∧ (t.phase = .idle ∨ t.phase = .inSendEnd))

/-- Log 4, log 9 (60_exceptions R267; 70_reset_and_hazards R297): a core whose host does nothing more stays as it is,
between commands and inside a callback that never returns. -/
def Obligations.WaitingCoreHoldsItsState : Prop :=
  ∀ (n : Nat) (s : State),
    (s.phase = .idle ∧ s.host.commands = [] ∨ s.phase = .inHostOp ∧ s.host.opAnswers = [] ∨
      (∃ pr, s.phase = .inProbe pr) ∧ s.host.probeAnswers = [] ∨ s.phase = .inSendEnd ∧ s.host.endReturns = []) →
    runSteps n s = some s
end

