-- ==== Sys2Proof/Laws/Decode.lean ====
section
/-! SUPPORT. The laws of the encoding helpers: fields of the instruction byte, and the bytes of an operand. -/

namespace Sys2Proof

@[simp] theorem Chan.ofBits_toBits (c : Chan) : Chan.ofBits c.toBits = c := by cases c <;> decide

@[simp] theorem Chan.toBits_ofBits (b : BitVec 2) : (Chan.ofBits b).toBits = b := by
  revert b
  decide

/-- The fields of `MKINST(op, c)` (00_scope R13, 30_encoding R90). -/
theorem mkinst_fields (o : BitVec 4) (c : Chan) :
    (mkinst o c).extractLsb' 6 2 = 0 ∧ (mkinst o c).extractLsb' 4 2 = c.toBits ∧
      (mkinst o c).extractLsb' 0 4 = o := by
  revert o
  cases c <;> decide

/-- The fields of the M4 instruction byte (46_minimal_variant R231). -/
theorem mkinstM4_fields (o : BitVec 2) (q : CmpOp) :
    (mkinstM4 o q).extractLsb' 5 3 = 0 ∧ (mkinstM4 o q).extractLsb' 2 3 = q ∧
      (mkinstM4 o q).extractLsb' 0 2 = o := by
  revert o q
  decide

/-! An operand is put together from its own bytes (30_encoding R92). -/

@[simp] theorem le16_byteOf (v : BitVec 16) : le16 (byteOf v 0) (byteOf v 1) = v := by
  refine BitVec.eq_of_getLsbD_eq fun i hi => ?_
  simp only [le16, byteOf, BitVec.getLsbD_append, BitVec.getLsbD_extractLsb']
  split
  · simp_all
  · simp only [show 8 * 1 + (i - 8) = i by omega, show i - 8 < 8 by omega, decide_true, Bool.true_and]

@[simp] theorem le24_byteOf (v : BitVec 24) : le24 (byteOf v 0) (byteOf v 1) (byteOf v 2) = v := by
  refine BitVec.eq_of_getLsbD_eq fun i hi => ?_
  simp only [le24, byteOf, BitVec.getLsbD_append, BitVec.getLsbD_extractLsb']
  split
  · split
    · simp_all
    · simp only [show 8 * 1 + (i - 8) = i by omega, show i - 8 < 8 by omega, decide_true, Bool.true_and]
  · simp only [show 8 * 2 + (i - (8 + 8)) = i by omega, show i - (8 + 8) < 8 by omega, decide_true, Bool.true_and]

@[simp] theorem le32_byteOf (v : BitVec 32) :
    le32 (byteOf v 0) (byteOf v 1) (byteOf v 2) (byteOf v 3) = v := by
  refine BitVec.eq_of_getLsbD_eq fun i hi => ?_
  simp only [le32, byteOf, BitVec.getLsbD_append, BitVec.getLsbD_extractLsb']
  split
  · split
    · split
      · simp_all
      · simp only [show 8 * 1 + (i - 8) = i by omega, show i - 8 < 8 by omega, decide_true, Bool.true_and]
    · simp only [show 8 * 2 + (i - (8 + 8)) = i by omega, show i - (8 + 8) < 8 by omega, decide_true, Bool.true_and]
  · simp only [show 8 * 3 + (i - (8 + (8 + 8))) = i by omega, show i - (8 + (8 + 8)) < 8 by omega, decide_true,
      Bool.true_and]

@[simp] theorem length_bytesOfWord (n : Nat) : ∀ w, (bytesOfWord n w).length = n := by
  induction n with
  | zero => intro w; rfl
  | succ n ih => intro w; simp [bytesOfWord, ih]

theorem instrSize_pos (i : Instr) : 1 ≤ instrSize i := by cases i <;> simp [instrSize]

theorem instrSize_le_max (i : Instr) : instrSize i ≤ maxInstrSize := by cases i <;> simp [instrSize, maxInstrSize]

end Sys2Proof
end

