-- ==== Sys2Proof/Laws/State.lean ====
section
/-! SUPPORT. What each update of the state leaves in each field, so that no later proof unfolds a record update; and the
laws of the register file. -/

namespace Sys2Proof.Machine

/-! The register file: a read after a write (10_state R20: only the channel named is touched). -/

@[simp] theorem RegFile.get_set_same (r : RegFile) (c : Chan) (v : Channel) : (r.set c v).get c = v := by
  cases c <;> rfl

@[simp] theorem RegFile.get_set_of_ne (r : RegFile) {c d : Chan} (v : Channel) (h : d ≠ c) :
    (r.set c v).get d = r.get d := by
  cases c <;> cases d <;> first | rfl | exact absurd rfl h

@[simp] theorem RegFile.get_reset (c : Chan) : RegFile.reset.get c = Channel.reset := by
  cases c <;> rfl

/-- Two register files with the same channels are equal. -/
theorem RegFile.ext_get {r t : RegFile} (h : ∀ c, r.get c = t.get c) : r = t := by
  have h0 := h .c0
  have h1 := h .c1
  have h2 := h .c2
  have h3 := h .c3
  cases r
  cases t
  simp_all [RegFile.get]

/-! Writing the registers of a channel (10_state R20). -/

@[simp] theorem State.setChan_variant (s : State) (c : Chan) (v : Channel) :
    (s.setChan c v).variant = s.variant := rfl
@[simp] theorem State.setChan_regs (s : State) (c : Chan) (v : Channel) :
    (s.setChan c v).regs = s.regs.set c v := rfl
@[simp] theorem State.setChan_st (s : State) (c : Chan) (v : Channel) :
    (s.setChan c v).st = s.st := rfl
@[simp] theorem State.setChan_e (s : State) (c : Chan) (v : Channel) :
    (s.setChan c v).e = s.e := rfl
@[simp] theorem State.setChan_procPresent (s : State) (c : Chan) (v : Channel) :
    (s.setChan c v).procPresent = s.procPresent := rfl
@[simp] theorem State.setChan_buf (s : State) (c : Chan) (v : Channel) :
    (s.setChan c v).buf = s.buf := rfl
@[simp] theorem State.setChan_progLen (s : State) (c : Chan) (v : Channel) :
    (s.setChan c v).progLen = s.progLen := rfl
@[simp] theorem State.setChan_off (s : State) (c : Chan) (v : Channel) :
    (s.setChan c v).off = s.off := rfl
@[simp] theorem State.setChan_p (s : State) (c : Chan) (v : Channel) :
    (s.setChan c v).p = s.p := rfl
@[simp] theorem State.setChan_nextOff (s : State) (c : Chan) (v : Channel) :
    (s.setChan c v).nextOff = s.nextOff := rfl
@[simp] theorem State.setChan_op (s : State) (c : Chan) (v : Channel) :
    (s.setChan c v).op = s.op := rfl
@[simp] theorem State.setChan_userdata (s : State) (c : Chan) (v : Channel) :
    (s.setChan c v).userdata = s.userdata := rfl
@[simp] theorem State.setChan_phase (s : State) (c : Chan) (v : Channel) :
    (s.setChan c v).phase = s.phase := rfl
@[simp] theorem State.setChan_host (s : State) (c : Chan) (v : Channel) :
    (s.setChan c v).host = s.host := rfl
@[simp] theorem State.setChan_events (s : State) (c : Chan) (v : Channel) :
    (s.setChan c v).events = s.events := rfl

/-! Returning from a command. -/

@[simp] theorem State.returnCode_variant (s : State) (k : Byte) :
    (s.returnCode k).variant = s.variant := rfl
@[simp] theorem State.returnCode_regs (s : State) (k : Byte) :
    (s.returnCode k).regs = s.regs := rfl
@[simp] theorem State.returnCode_st (s : State) (k : Byte) :
    (s.returnCode k).st = s.st := rfl
@[simp] theorem State.returnCode_e (s : State) (k : Byte) :
    (s.returnCode k).e = s.e := rfl
@[simp] theorem State.returnCode_procPresent (s : State) (k : Byte) :
    (s.returnCode k).procPresent = s.procPresent := rfl
@[simp] theorem State.returnCode_buf (s : State) (k : Byte) :
    (s.returnCode k).buf = s.buf := rfl
@[simp] theorem State.returnCode_progLen (s : State) (k : Byte) :
    (s.returnCode k).progLen = s.progLen := rfl
@[simp] theorem State.returnCode_off (s : State) (k : Byte) :
    (s.returnCode k).off = s.off := rfl
@[simp] theorem State.returnCode_p (s : State) (k : Byte) :
    (s.returnCode k).p = s.p := rfl
@[simp] theorem State.returnCode_nextOff (s : State) (k : Byte) :
    (s.returnCode k).nextOff = s.nextOff := rfl
@[simp] theorem State.returnCode_op (s : State) (k : Byte) :
    (s.returnCode k).op = s.op := rfl
@[simp] theorem State.returnCode_userdata (s : State) (k : Byte) :
    (s.returnCode k).userdata = s.userdata := rfl
@[simp] theorem State.returnCode_phase (s : State) (k : Byte) :
    (s.returnCode k).phase = .idle := rfl
@[simp] theorem State.returnCode_host (s : State) (k : Byte) :
    (s.returnCode k).host = s.host := rfl
@[simp] theorem State.returnCode_events (s : State) (k : Byte) :
    (s.returnCode k).events = .returned k :: s.events := rfl

/-! Invoking `SendEnd` (60_exceptions R259). -/

@[simp] theorem State.sendEnd_variant (s : State) :
    (s.sendEnd).variant = s.variant := rfl
@[simp] theorem State.sendEnd_regs (s : State) :
    (s.sendEnd).regs = s.regs := rfl
@[simp] theorem State.sendEnd_st (s : State) :
    (s.sendEnd).st = s.st := rfl
@[simp] theorem State.sendEnd_e (s : State) :
    (s.sendEnd).e = s.e := rfl
@[simp] theorem State.sendEnd_procPresent (s : State) :
    (s.sendEnd).procPresent = s.procPresent := rfl
@[simp] theorem State.sendEnd_buf (s : State) :
    (s.sendEnd).buf = s.buf := rfl
@[simp] theorem State.sendEnd_progLen (s : State) :
    (s.sendEnd).progLen = s.progLen := rfl
@[simp] theorem State.sendEnd_off (s : State) :
    (s.sendEnd).off = s.off := rfl
@[simp] theorem State.sendEnd_p (s : State) :
    (s.sendEnd).p = s.p := rfl
@[simp] theorem State.sendEnd_nextOff (s : State) :
    (s.sendEnd).nextOff = s.nextOff := rfl
@[simp] theorem State.sendEnd_op (s : State) :
    (s.sendEnd).op = s.op := rfl
@[simp] theorem State.sendEnd_userdata (s : State) :
    (s.sendEnd).userdata = s.userdata := rfl
@[simp] theorem State.sendEnd_phase (s : State) :
    (s.sendEnd).phase = .inSendEnd := rfl
@[simp] theorem State.sendEnd_host (s : State) :
    (s.sendEnd).host = s.host := rfl
@[simp] theorem State.sendEnd_events (s : State) :
    (s.sendEnd).events = .sendEnd s.st s.e s.p :: s.events := rfl

/-! Ending a run (40_lifecycle R130). -/

@[simp] theorem State.endRun_variant (s : State) :
    (s.endRun).variant = s.variant := rfl
@[simp] theorem State.endRun_regs (s : State) :
    (s.endRun).regs = s.regs := rfl
@[simp] theorem State.endRun_st (s : State) :
    (s.endRun).st = .ended := rfl
@[simp] theorem State.endRun_e (s : State) :
    (s.endRun).e = s.e := rfl
@[simp] theorem State.endRun_procPresent (s : State) :
    (s.endRun).procPresent = s.procPresent := rfl
@[simp] theorem State.endRun_buf (s : State) :
    (s.endRun).buf = s.buf := rfl
@[simp] theorem State.endRun_progLen (s : State) :
    (s.endRun).progLen = s.progLen := rfl
@[simp] theorem State.endRun_off (s : State) :
    (s.endRun).off = s.off := rfl
@[simp] theorem State.endRun_p (s : State) :
    (s.endRun).p = s.p := rfl
@[simp] theorem State.endRun_nextOff (s : State) :
    (s.endRun).nextOff = s.nextOff := rfl
@[simp] theorem State.endRun_op (s : State) :
    (s.endRun).op = s.op := rfl
@[simp] theorem State.endRun_userdata (s : State) :
    (s.endRun).userdata = s.userdata := rfl
@[simp] theorem State.endRun_phase (s : State) :
    (s.endRun).phase = .inSendEnd := rfl
@[simp] theorem State.endRun_host (s : State) :
    (s.endRun).host = s.host := rfl
@[simp] theorem State.endRun_events (s : State) :
    (s.endRun).events = .sendEnd .ended s.e s.p :: s.events := rfl

/-! The error latch (60_exceptions R255): `e`, `s` and the notification, nothing else. -/

@[simp] theorem State.latch_variant (s : State) (k : Byte) :
    (s.latch k).variant = s.variant := rfl
@[simp] theorem State.latch_regs (s : State) (k : Byte) :
    (s.latch k).regs = s.regs := rfl
@[simp] theorem State.latch_st (s : State) (k : Byte) :
    (s.latch k).st = .errored := rfl
@[simp] theorem State.latch_e (s : State) (k : Byte) :
    (s.latch k).e = k := rfl
@[simp] theorem State.latch_procPresent (s : State) (k : Byte) :
    (s.latch k).procPresent = s.procPresent := rfl
@[simp] theorem State.latch_buf (s : State) (k : Byte) :
    (s.latch k).buf = s.buf := rfl
@[simp] theorem State.latch_progLen (s : State) (k : Byte) :
    (s.latch k).progLen = s.progLen := rfl
@[simp] theorem State.latch_off (s : State) (k : Byte) :
    (s.latch k).off = s.off := rfl
@[simp] theorem State.latch_p (s : State) (k : Byte) :
    (s.latch k).p = s.p := rfl
@[simp] theorem State.latch_nextOff (s : State) (k : Byte) :
    (s.latch k).nextOff = s.nextOff := rfl
@[simp] theorem State.latch_op (s : State) (k : Byte) :
    (s.latch k).op = s.op := rfl
@[simp] theorem State.latch_userdata (s : State) (k : Byte) :
    (s.latch k).userdata = s.userdata := rfl
@[simp] theorem State.latch_phase (s : State) (k : Byte) :
    (s.latch k).phase = .inSendEnd := rfl
@[simp] theorem State.latch_host (s : State) (k : Byte) :
    (s.latch k).host = s.host := rfl
@[simp] theorem State.latch_events (s : State) (k : Byte) :
    (s.latch k).events = .sendEnd .errored k s.p :: s.events := rfl

/-! Zeroing the per-run state (10_state R40). -/

@[simp] theorem State.zeroPerRun_variant (s : State) :
    (s.zeroPerRun).variant = s.variant := rfl
@[simp] theorem State.zeroPerRun_regs (s : State) :
    (s.zeroPerRun).regs = s.regs := rfl
@[simp] theorem State.zeroPerRun_st (s : State) :
    (s.zeroPerRun).st = s.st := rfl
@[simp] theorem State.zeroPerRun_e (s : State) :
    (s.zeroPerRun).e = ErrCode.success := rfl
@[simp] theorem State.zeroPerRun_procPresent (s : State) :
    (s.zeroPerRun).procPresent = s.procPresent := rfl
@[simp] theorem State.zeroPerRun_buf (s : State) :
    (s.zeroPerRun).buf = s.buf := rfl
@[simp] theorem State.zeroPerRun_progLen (s : State) :
    (s.zeroPerRun).progLen = s.progLen := rfl
@[simp] theorem State.zeroPerRun_off (s : State) :
    (s.zeroPerRun).off = 0 := rfl
@[simp] theorem State.zeroPerRun_p (s : State) :
    (s.zeroPerRun).p = 0 := rfl
@[simp] theorem State.zeroPerRun_nextOff (s : State) :
    (s.zeroPerRun).nextOff = 0 := rfl
@[simp] theorem State.zeroPerRun_op (s : State) :
    (s.zeroPerRun).op = .idle := rfl
@[simp] theorem State.zeroPerRun_userdata (s : State) :
    (s.zeroPerRun).userdata = s.userdata := rfl
@[simp] theorem State.zeroPerRun_phase (s : State) :
    (s.zeroPerRun).phase = s.phase := rfl
@[simp] theorem State.zeroPerRun_host (s : State) :
    (s.zeroPerRun).host = s.host := rfl
@[simp] theorem State.zeroPerRun_events (s : State) :
    (s.zeroPerRun).events = s.events := rfl

/-! Replacing the active record. -/

@[simp] theorem State.setOp_variant (s : State) (o : Op) :
    (s.setOp o).variant = s.variant := rfl
@[simp] theorem State.setOp_regs (s : State) (o : Op) :
    (s.setOp o).regs = s.regs := rfl
@[simp] theorem State.setOp_st (s : State) (o : Op) :
    (s.setOp o).st = s.st := rfl
@[simp] theorem State.setOp_e (s : State) (o : Op) :
    (s.setOp o).e = s.e := rfl
@[simp] theorem State.setOp_procPresent (s : State) (o : Op) :
    (s.setOp o).procPresent = s.procPresent := rfl
@[simp] theorem State.setOp_buf (s : State) (o : Op) :
    (s.setOp o).buf = s.buf := rfl
@[simp] theorem State.setOp_progLen (s : State) (o : Op) :
    (s.setOp o).progLen = s.progLen := rfl
@[simp] theorem State.setOp_off (s : State) (o : Op) :
    (s.setOp o).off = s.off := rfl
@[simp] theorem State.setOp_p (s : State) (o : Op) :
    (s.setOp o).p = s.p := rfl
@[simp] theorem State.setOp_nextOff (s : State) (o : Op) :
    (s.setOp o).nextOff = s.nextOff := rfl
@[simp] theorem State.setOp_op (s : State) (o : Op) :
    (s.setOp o).op = o := rfl
@[simp] theorem State.setOp_userdata (s : State) (o : Op) :
    (s.setOp o).userdata = s.userdata := rfl
@[simp] theorem State.setOp_phase (s : State) (o : Op) :
    (s.setOp o).phase = s.phase := rfl
@[simp] theorem State.setOp_host (s : State) (o : Op) :
    (s.setOp o).host = s.host := rfl
@[simp] theorem State.setOp_events (s : State) (o : Op) :
    (s.setOp o).events = s.events := rfl

/-! Moving past the bytes of an instruction (10_state R32, R33). -/

@[simp] theorem State.beginInstr_variant (s : State) (n : Nat) :
    (s.beginInstr n).variant = s.variant := rfl
@[simp] theorem State.beginInstr_regs (s : State) (n : Nat) :
    (s.beginInstr n).regs = s.regs := rfl
@[simp] theorem State.beginInstr_st (s : State) (n : Nat) :
    (s.beginInstr n).st = s.st := rfl
@[simp] theorem State.beginInstr_e (s : State) (n : Nat) :
    (s.beginInstr n).e = s.e := rfl
@[simp] theorem State.beginInstr_procPresent (s : State) (n : Nat) :
    (s.beginInstr n).procPresent = s.procPresent := rfl
@[simp] theorem State.beginInstr_buf (s : State) (n : Nat) :
    (s.beginInstr n).buf = s.buf := rfl
@[simp] theorem State.beginInstr_progLen (s : State) (n : Nat) :
    (s.beginInstr n).progLen = s.progLen := rfl
@[simp] theorem State.beginInstr_off (s : State) (n : Nat) :
    (s.beginInstr n).off = s.off + BitVec.ofNat 32 n := rfl
@[simp] theorem State.beginInstr_p (s : State) (n : Nat) :
    (s.beginInstr n).p = s.off := rfl
@[simp] theorem State.beginInstr_nextOff (s : State) (n : Nat) :
    (s.beginInstr n).nextOff = s.nextOff := rfl
@[simp] theorem State.beginInstr_op (s : State) (n : Nat) :
    (s.beginInstr n).op = s.op := rfl
@[simp] theorem State.beginInstr_userdata (s : State) (n : Nat) :
    (s.beginInstr n).userdata = s.userdata := rfl
@[simp] theorem State.beginInstr_phase (s : State) (n : Nat) :
    (s.beginInstr n).phase = s.phase := rfl
@[simp] theorem State.beginInstr_host (s : State) (n : Nat) :
    (s.beginInstr n).host = s.host := rfl
@[simp] theorem State.beginInstr_events (s : State) (n : Nat) :
    (s.beginInstr n).events = s.events := rfl

/-! Invoking `HostOp` (40_lifecycle R140). -/

@[simp] theorem State.invokeHostOp_variant (s : State) :
    (s.invokeHostOp).variant = s.variant := rfl
@[simp] theorem State.invokeHostOp_regs (s : State) :
    (s.invokeHostOp).regs = s.regs := rfl
@[simp] theorem State.invokeHostOp_st (s : State) :
    (s.invokeHostOp).st = s.st := rfl
@[simp] theorem State.invokeHostOp_e (s : State) :
    (s.invokeHostOp).e = s.e := rfl
@[simp] theorem State.invokeHostOp_procPresent (s : State) :
    (s.invokeHostOp).procPresent = s.procPresent := rfl
@[simp] theorem State.invokeHostOp_buf (s : State) :
    (s.invokeHostOp).buf = s.buf := rfl
@[simp] theorem State.invokeHostOp_progLen (s : State) :
    (s.invokeHostOp).progLen = s.progLen := rfl
@[simp] theorem State.invokeHostOp_off (s : State) :
    (s.invokeHostOp).off = s.off := rfl
@[simp] theorem State.invokeHostOp_p (s : State) :
    (s.invokeHostOp).p = s.p := rfl
@[simp] theorem State.invokeHostOp_nextOff (s : State) :
    (s.invokeHostOp).nextOff = s.nextOff := rfl
@[simp] theorem State.invokeHostOp_op (s : State) :
    (s.invokeHostOp).op = s.op := rfl
@[simp] theorem State.invokeHostOp_userdata (s : State) :
    (s.invokeHostOp).userdata = s.userdata := rfl
@[simp] theorem State.invokeHostOp_phase (s : State) :
    (s.invokeHostOp).phase = .inHostOp := rfl
@[simp] theorem State.invokeHostOp_host (s : State) :
    (s.invokeHostOp).host = s.host := rfl
@[simp] theorem State.invokeHostOp_events (s : State) :
    (s.invokeHostOp).events = .hostOp s.op :: s.events := rfl

/-! Entering an I/O opcode (40_lifecycle R132). -/

@[simp] theorem State.enterOp_variant (s : State) (o : Op) (n : Offset) (x : ExecState) :
    (s.enterOp o n x).variant = s.variant := rfl
@[simp] theorem State.enterOp_regs (s : State) (o : Op) (n : Offset) (x : ExecState) :
    (s.enterOp o n x).regs = s.regs := rfl
@[simp] theorem State.enterOp_st (s : State) (o : Op) (n : Offset) (x : ExecState) :
    (s.enterOp o n x).st = x := rfl
@[simp] theorem State.enterOp_e (s : State) (o : Op) (n : Offset) (x : ExecState) :
    (s.enterOp o n x).e = s.e := rfl
@[simp] theorem State.enterOp_procPresent (s : State) (o : Op) (n : Offset) (x : ExecState) :
    (s.enterOp o n x).procPresent = s.procPresent := rfl
@[simp] theorem State.enterOp_buf (s : State) (o : Op) (n : Offset) (x : ExecState) :
    (s.enterOp o n x).buf = s.buf := rfl
@[simp] theorem State.enterOp_progLen (s : State) (o : Op) (n : Offset) (x : ExecState) :
    (s.enterOp o n x).progLen = s.progLen := rfl
@[simp] theorem State.enterOp_off (s : State) (o : Op) (n : Offset) (x : ExecState) :
    (s.enterOp o n x).off = s.off := rfl
@[simp] theorem State.enterOp_p (s : State) (o : Op) (n : Offset) (x : ExecState) :
    (s.enterOp o n x).p = s.p := rfl
@[simp] theorem State.enterOp_nextOff (s : State) (o : Op) (n : Offset) (x : ExecState) :
    (s.enterOp o n x).nextOff = n := rfl
@[simp] theorem State.enterOp_op (s : State) (o : Op) (n : Offset) (x : ExecState) :
    (s.enterOp o n x).op = o := rfl
@[simp] theorem State.enterOp_userdata (s : State) (o : Op) (n : Offset) (x : ExecState) :
    (s.enterOp o n x).userdata = s.userdata := rfl
@[simp] theorem State.enterOp_phase (s : State) (o : Op) (n : Offset) (x : ExecState) :
    (s.enterOp o n x).phase = .inHostOp := rfl
@[simp] theorem State.enterOp_host (s : State) (o : Op) (n : Offset) (x : ExecState) :
    (s.enterOp o n x).host = s.host := rfl
@[simp] theorem State.enterOp_events (s : State) (o : Op) (n : Offset) (x : ExecState) :
    (s.enterOp o n x).events = .hostOp o :: s.events := rfl

/-! Invoking the probe (45_abort R221). -/

@[simp] theorem State.invokeProbe_variant (s : State) (pr : ProbeRec) :
    (s.invokeProbe pr).variant = s.variant := rfl
@[simp] theorem State.invokeProbe_regs (s : State) (pr : ProbeRec) :
    (s.invokeProbe pr).regs = s.regs := rfl
@[simp] theorem State.invokeProbe_st (s : State) (pr : ProbeRec) :
    (s.invokeProbe pr).st = s.st := rfl
@[simp] theorem State.invokeProbe_e (s : State) (pr : ProbeRec) :
    (s.invokeProbe pr).e = s.e := rfl
@[simp] theorem State.invokeProbe_procPresent (s : State) (pr : ProbeRec) :
    (s.invokeProbe pr).procPresent = s.procPresent := rfl
@[simp] theorem State.invokeProbe_buf (s : State) (pr : ProbeRec) :
    (s.invokeProbe pr).buf = s.buf := rfl
@[simp] theorem State.invokeProbe_progLen (s : State) (pr : ProbeRec) :
    (s.invokeProbe pr).progLen = s.progLen := rfl
@[simp] theorem State.invokeProbe_off (s : State) (pr : ProbeRec) :
    (s.invokeProbe pr).off = s.off := rfl
@[simp] theorem State.invokeProbe_p (s : State) (pr : ProbeRec) :
    (s.invokeProbe pr).p = s.p := rfl
@[simp] theorem State.invokeProbe_nextOff (s : State) (pr : ProbeRec) :
    (s.invokeProbe pr).nextOff = s.nextOff := rfl
@[simp] theorem State.invokeProbe_op (s : State) (pr : ProbeRec) :
    (s.invokeProbe pr).op = s.op := rfl
@[simp] theorem State.invokeProbe_userdata (s : State) (pr : ProbeRec) :
    (s.invokeProbe pr).userdata = s.userdata := rfl
@[simp] theorem State.invokeProbe_phase (s : State) (pr : ProbeRec) :
    (s.invokeProbe pr).phase = .inProbe pr := rfl
@[simp] theorem State.invokeProbe_host (s : State) (pr : ProbeRec) :
    (s.invokeProbe pr).host = s.host := rfl
@[simp] theorem State.invokeProbe_events (s : State) (pr : ProbeRec) :
    (s.invokeProbe pr).events = .probe pr.chip pr.address :: s.events := rfl

/-! Clearing every piece of the spec's state (10_state R46). -/

@[simp] theorem State.clear_variant (s : State) :
    (s.clear).variant = s.variant := rfl
@[simp] theorem State.clear_regs (s : State) :
    (s.clear).regs = RegFile.reset := rfl
@[simp] theorem State.clear_st (s : State) :
    (s.clear).st = .init := rfl
@[simp] theorem State.clear_e (s : State) :
    (s.clear).e = 0 := rfl
@[simp] theorem State.clear_procPresent (s : State) :
    (s.clear).procPresent = false := rfl
@[simp] theorem State.clear_buf (s : State) :
    (s.clear).buf = [] := rfl
@[simp] theorem State.clear_progLen (s : State) :
    (s.clear).progLen = 0 := rfl
@[simp] theorem State.clear_off (s : State) :
    (s.clear).off = 0 := rfl
@[simp] theorem State.clear_p (s : State) :
    (s.clear).p = 0 := rfl
@[simp] theorem State.clear_nextOff (s : State) :
    (s.clear).nextOff = 0 := rfl
@[simp] theorem State.clear_op (s : State) :
    (s.clear).op = .idle := rfl
@[simp] theorem State.clear_userdata (s : State) :
    (s.clear).userdata = 0 := rfl
@[simp] theorem State.clear_phase (s : State) :
    (s.clear).phase = .idle := rfl
@[simp] theorem State.clear_host (s : State) :
    (s.clear).host = s.host := rfl
@[simp] theorem State.clear_events (s : State) :
    (s.clear).events = s.events := rfl

/-! Taking one input of the host. -/

@[simp] theorem State.dropCommand_variant (s : State) :
    (s.dropCommand).variant = s.variant := rfl
@[simp] theorem State.dropCommand_regs (s : State) :
    (s.dropCommand).regs = s.regs := rfl
@[simp] theorem State.dropCommand_st (s : State) :
    (s.dropCommand).st = s.st := rfl
@[simp] theorem State.dropCommand_e (s : State) :
    (s.dropCommand).e = s.e := rfl
@[simp] theorem State.dropCommand_procPresent (s : State) :
    (s.dropCommand).procPresent = s.procPresent := rfl
@[simp] theorem State.dropCommand_buf (s : State) :
    (s.dropCommand).buf = s.buf := rfl
@[simp] theorem State.dropCommand_progLen (s : State) :
    (s.dropCommand).progLen = s.progLen := rfl
@[simp] theorem State.dropCommand_off (s : State) :
    (s.dropCommand).off = s.off := rfl
@[simp] theorem State.dropCommand_p (s : State) :
    (s.dropCommand).p = s.p := rfl
@[simp] theorem State.dropCommand_nextOff (s : State) :
    (s.dropCommand).nextOff = s.nextOff := rfl
@[simp] theorem State.dropCommand_op (s : State) :
    (s.dropCommand).op = s.op := rfl
@[simp] theorem State.dropCommand_userdata (s : State) :
    (s.dropCommand).userdata = s.userdata := rfl
@[simp] theorem State.dropCommand_phase (s : State) :
    (s.dropCommand).phase = s.phase := rfl
@[simp] theorem State.dropCommand_host (s : State) :
    (s.dropCommand).host = { s.host with commands := s.host.commands.tail } := rfl
@[simp] theorem State.dropCommand_events (s : State) :
    (s.dropCommand).events = s.events := rfl

/-! Taking one input of the host. -/

@[simp] theorem State.dropOpAnswer_variant (s : State) :
    (s.dropOpAnswer).variant = s.variant := rfl
@[simp] theorem State.dropOpAnswer_regs (s : State) :
    (s.dropOpAnswer).regs = s.regs := rfl
@[simp] theorem State.dropOpAnswer_st (s : State) :
    (s.dropOpAnswer).st = s.st := rfl
@[simp] theorem State.dropOpAnswer_e (s : State) :
    (s.dropOpAnswer).e = s.e := rfl
@[simp] theorem State.dropOpAnswer_procPresent (s : State) :
    (s.dropOpAnswer).procPresent = s.procPresent := rfl
@[simp] theorem State.dropOpAnswer_buf (s : State) :
    (s.dropOpAnswer).buf = s.buf := rfl
@[simp] theorem State.dropOpAnswer_progLen (s : State) :
    (s.dropOpAnswer).progLen = s.progLen := rfl
@[simp] theorem State.dropOpAnswer_off (s : State) :
    (s.dropOpAnswer).off = s.off := rfl
@[simp] theorem State.dropOpAnswer_p (s : State) :
    (s.dropOpAnswer).p = s.p := rfl
@[simp] theorem State.dropOpAnswer_nextOff (s : State) :
    (s.dropOpAnswer).nextOff = s.nextOff := rfl
@[simp] theorem State.dropOpAnswer_op (s : State) :
    (s.dropOpAnswer).op = s.op := rfl
@[simp] theorem State.dropOpAnswer_userdata (s : State) :
    (s.dropOpAnswer).userdata = s.userdata := rfl
@[simp] theorem State.dropOpAnswer_phase (s : State) :
    (s.dropOpAnswer).phase = s.phase := rfl
@[simp] theorem State.dropOpAnswer_host (s : State) :
    (s.dropOpAnswer).host = { s.host with opAnswers := s.host.opAnswers.tail } := rfl
@[simp] theorem State.dropOpAnswer_events (s : State) :
    (s.dropOpAnswer).events = s.events := rfl

/-! Taking one input of the host. -/

@[simp] theorem State.dropProbeAnswer_variant (s : State) :
    (s.dropProbeAnswer).variant = s.variant := rfl
@[simp] theorem State.dropProbeAnswer_regs (s : State) :
    (s.dropProbeAnswer).regs = s.regs := rfl
@[simp] theorem State.dropProbeAnswer_st (s : State) :
    (s.dropProbeAnswer).st = s.st := rfl
@[simp] theorem State.dropProbeAnswer_e (s : State) :
    (s.dropProbeAnswer).e = s.e := rfl
@[simp] theorem State.dropProbeAnswer_procPresent (s : State) :
    (s.dropProbeAnswer).procPresent = s.procPresent := rfl
@[simp] theorem State.dropProbeAnswer_buf (s : State) :
    (s.dropProbeAnswer).buf = s.buf := rfl
@[simp] theorem State.dropProbeAnswer_progLen (s : State) :
    (s.dropProbeAnswer).progLen = s.progLen := rfl
@[simp] theorem State.dropProbeAnswer_off (s : State) :
    (s.dropProbeAnswer).off = s.off := rfl
@[simp] theorem State.dropProbeAnswer_p (s : State) :
    (s.dropProbeAnswer).p = s.p := rfl
@[simp] theorem State.dropProbeAnswer_nextOff (s : State) :
    (s.dropProbeAnswer).nextOff = s.nextOff := rfl
@[simp] theorem State.dropProbeAnswer_op (s : State) :
    (s.dropProbeAnswer).op = s.op := rfl
@[simp] theorem State.dropProbeAnswer_userdata (s : State) :
    (s.dropProbeAnswer).userdata = s.userdata := rfl
@[simp] theorem State.dropProbeAnswer_phase (s : State) :
    (s.dropProbeAnswer).phase = s.phase := rfl
@[simp] theorem State.dropProbeAnswer_host (s : State) :
    (s.dropProbeAnswer).host = { s.host with probeAnswers := s.host.probeAnswers.tail } := rfl
@[simp] theorem State.dropProbeAnswer_events (s : State) :
    (s.dropProbeAnswer).events = s.events := rfl

/-! Taking one input of the host. -/

@[simp] theorem State.dropEndReturn_variant (s : State) :
    (s.dropEndReturn).variant = s.variant := rfl
@[simp] theorem State.dropEndReturn_regs (s : State) :
    (s.dropEndReturn).regs = s.regs := rfl
@[simp] theorem State.dropEndReturn_st (s : State) :
    (s.dropEndReturn).st = s.st := rfl
@[simp] theorem State.dropEndReturn_e (s : State) :
    (s.dropEndReturn).e = s.e := rfl
@[simp] theorem State.dropEndReturn_procPresent (s : State) :
    (s.dropEndReturn).procPresent = s.procPresent := rfl
@[simp] theorem State.dropEndReturn_buf (s : State) :
    (s.dropEndReturn).buf = s.buf := rfl
@[simp] theorem State.dropEndReturn_progLen (s : State) :
    (s.dropEndReturn).progLen = s.progLen := rfl
@[simp] theorem State.dropEndReturn_off (s : State) :
    (s.dropEndReturn).off = s.off := rfl
@[simp] theorem State.dropEndReturn_p (s : State) :
    (s.dropEndReturn).p = s.p := rfl
@[simp] theorem State.dropEndReturn_nextOff (s : State) :
    (s.dropEndReturn).nextOff = s.nextOff := rfl
@[simp] theorem State.dropEndReturn_op (s : State) :
    (s.dropEndReturn).op = s.op := rfl
@[simp] theorem State.dropEndReturn_userdata (s : State) :
    (s.dropEndReturn).userdata = s.userdata := rfl
@[simp] theorem State.dropEndReturn_phase (s : State) :
    (s.dropEndReturn).phase = s.phase := rfl
@[simp] theorem State.dropEndReturn_host (s : State) :
    (s.dropEndReturn).host = { s.host with endReturns := s.host.endReturns.tail } := rfl
@[simp] theorem State.dropEndReturn_events (s : State) :
    (s.dropEndReturn).events = s.events := rfl

/-! One call of the host writes nothing but `userdata` and the record of outputs (40_lifecycle R123, R124). -/

@[simp] theorem State.portCall_variant (s : State) (call : PortCall) :
    (s.portCall call).variant = s.variant := by cases call <;> rfl
@[simp] theorem State.portCall_regs (s : State) (call : PortCall) :
    (s.portCall call).regs = s.regs := by cases call <;> rfl
@[simp] theorem State.portCall_st (s : State) (call : PortCall) :
    (s.portCall call).st = s.st := by cases call <;> rfl
@[simp] theorem State.portCall_e (s : State) (call : PortCall) :
    (s.portCall call).e = s.e := by cases call <;> rfl
@[simp] theorem State.portCall_procPresent (s : State) (call : PortCall) :
    (s.portCall call).procPresent = s.procPresent := by cases call <;> rfl
@[simp] theorem State.portCall_buf (s : State) (call : PortCall) :
    (s.portCall call).buf = s.buf := by cases call <;> rfl
@[simp] theorem State.portCall_progLen (s : State) (call : PortCall) :
    (s.portCall call).progLen = s.progLen := by cases call <;> rfl
@[simp] theorem State.portCall_off (s : State) (call : PortCall) :
    (s.portCall call).off = s.off := by cases call <;> rfl
@[simp] theorem State.portCall_p (s : State) (call : PortCall) :
    (s.portCall call).p = s.p := by cases call <;> rfl
@[simp] theorem State.portCall_nextOff (s : State) (call : PortCall) :
    (s.portCall call).nextOff = s.nextOff := by cases call <;> rfl
@[simp] theorem State.portCall_op (s : State) (call : PortCall) :
    (s.portCall call).op = s.op := by cases call <;> rfl
@[simp] theorem State.portCall_phase (s : State) (call : PortCall) :
    (s.portCall call).phase = s.phase := by cases call <;> rfl
@[simp] theorem State.portCall_host (s : State) (call : PortCall) :
    (s.portCall call).host = s.host := by cases call <;> rfl

@[simp] theorem State.portCalls_variant (calls : List PortCall) : ∀ s : State,
    (s.portCalls calls).variant = s.variant := by
  induction calls with
  | nil => intro s; rfl
  | cons call calls ih => intro s; simp [State.portCalls, ih]
@[simp] theorem State.portCalls_regs (calls : List PortCall) : ∀ s : State,
    (s.portCalls calls).regs = s.regs := by
  induction calls with
  | nil => intro s; rfl
  | cons call calls ih => intro s; simp [State.portCalls, ih]
@[simp] theorem State.portCalls_st (calls : List PortCall) : ∀ s : State,
    (s.portCalls calls).st = s.st := by
  induction calls with
  | nil => intro s; rfl
  | cons call calls ih => intro s; simp [State.portCalls, ih]
@[simp] theorem State.portCalls_e (calls : List PortCall) : ∀ s : State,
    (s.portCalls calls).e = s.e := by
  induction calls with
  | nil => intro s; rfl
  | cons call calls ih => intro s; simp [State.portCalls, ih]
@[simp] theorem State.portCalls_procPresent (calls : List PortCall) : ∀ s : State,
    (s.portCalls calls).procPresent = s.procPresent := by
  induction calls with
  | nil => intro s; rfl
  | cons call calls ih => intro s; simp [State.portCalls, ih]
@[simp] theorem State.portCalls_buf (calls : List PortCall) : ∀ s : State,
    (s.portCalls calls).buf = s.buf := by
  induction calls with
  | nil => intro s; rfl
  | cons call calls ih => intro s; simp [State.portCalls, ih]
@[simp] theorem State.portCalls_progLen (calls : List PortCall) : ∀ s : State,
    (s.portCalls calls).progLen = s.progLen := by
  induction calls with
  | nil => intro s; rfl
  | cons call calls ih => intro s; simp [State.portCalls, ih]
@[simp] theorem State.portCalls_off (calls : List PortCall) : ∀ s : State,
    (s.portCalls calls).off = s.off := by
  induction calls with
  | nil => intro s; rfl
  | cons call calls ih => intro s; simp [State.portCalls, ih]
@[simp] theorem State.portCalls_p (calls : List PortCall) : ∀ s : State,
    (s.portCalls calls).p = s.p := by
  induction calls with
  | nil => intro s; rfl
  | cons call calls ih => intro s; simp [State.portCalls, ih]
@[simp] theorem State.portCalls_nextOff (calls : List PortCall) : ∀ s : State,
    (s.portCalls calls).nextOff = s.nextOff := by
  induction calls with
  | nil => intro s; rfl
  | cons call calls ih => intro s; simp [State.portCalls, ih]
@[simp] theorem State.portCalls_op (calls : List PortCall) : ∀ s : State,
    (s.portCalls calls).op = s.op := by
  induction calls with
  | nil => intro s; rfl
  | cons call calls ih => intro s; simp [State.portCalls, ih]
@[simp] theorem State.portCalls_phase (calls : List PortCall) : ∀ s : State,
    (s.portCalls calls).phase = s.phase := by
  induction calls with
  | nil => intro s; rfl
  | cons call calls ih => intro s; simp [State.portCalls, ih]
@[simp] theorem State.portCalls_host (calls : List PortCall) : ∀ s : State,
    (s.portCalls calls).host = s.host := by
  induction calls with
  | nil => intro s; rfl
  | cons call calls ih => intro s; simp [State.portCalls, ih]

/-! The write-back writes nothing but the register file (40_lifecycle R142). -/

@[simp] theorem State.writeBack_variant (s : State) (u : Bool) (c : Chan) (a : Addr) (l : BitVec 17) :
    (s.writeBack u c a l).variant = s.variant := by cases u <;> rfl
@[simp] theorem State.writeBack_st (s : State) (u : Bool) (c : Chan) (a : Addr) (l : BitVec 17) :
    (s.writeBack u c a l).st = s.st := by cases u <;> rfl
@[simp] theorem State.writeBack_e (s : State) (u : Bool) (c : Chan) (a : Addr) (l : BitVec 17) :
    (s.writeBack u c a l).e = s.e := by cases u <;> rfl
@[simp] theorem State.writeBack_procPresent (s : State) (u : Bool) (c : Chan) (a : Addr) (l : BitVec 17) :
    (s.writeBack u c a l).procPresent = s.procPresent := by cases u <;> rfl
@[simp] theorem State.writeBack_buf (s : State) (u : Bool) (c : Chan) (a : Addr) (l : BitVec 17) :
    (s.writeBack u c a l).buf = s.buf := by cases u <;> rfl
@[simp] theorem State.writeBack_progLen (s : State) (u : Bool) (c : Chan) (a : Addr) (l : BitVec 17) :
    (s.writeBack u c a l).progLen = s.progLen := by cases u <;> rfl
@[simp] theorem State.writeBack_off (s : State) (u : Bool) (c : Chan) (a : Addr) (l : BitVec 17) :
    (s.writeBack u c a l).off = s.off := by cases u <;> rfl
@[simp] theorem State.writeBack_p (s : State) (u : Bool) (c : Chan) (a : Addr) (l : BitVec 17) :
    (s.writeBack u c a l).p = s.p := by cases u <;> rfl
@[simp] theorem State.writeBack_nextOff (s : State) (u : Bool) (c : Chan) (a : Addr) (l : BitVec 17) :
    (s.writeBack u c a l).nextOff = s.nextOff := by cases u <;> rfl
@[simp] theorem State.writeBack_op (s : State) (u : Bool) (c : Chan) (a : Addr) (l : BitVec 17) :
    (s.writeBack u c a l).op = s.op := by cases u <;> rfl
@[simp] theorem State.writeBack_userdata (s : State) (u : Bool) (c : Chan) (a : Addr) (l : BitVec 17) :
    (s.writeBack u c a l).userdata = s.userdata := by cases u <;> rfl
@[simp] theorem State.writeBack_phase (s : State) (u : Bool) (c : Chan) (a : Addr) (l : BitVec 17) :
    (s.writeBack u c a l).phase = s.phase := by cases u <;> rfl
@[simp] theorem State.writeBack_host (s : State) (u : Bool) (c : Chan) (a : Addr) (l : BitVec 17) :
    (s.writeBack u c a l).host = s.host := by cases u <;> rfl
@[simp] theorem State.writeBack_events (s : State) (u : Bool) (c : Chan) (a : Addr) (l : BitVec 17) :
    (s.writeBack u c a l).events = s.events := by cases u <;> rfl

@[simp] theorem State.writeBackOp_variant (s : State) : s.writeBackOp.variant = s.variant := by
  unfold State.writeBackOp; split <;> simp
@[simp] theorem State.writeBackOp_st (s : State) : s.writeBackOp.st = s.st := by
  unfold State.writeBackOp; split <;> simp
@[simp] theorem State.writeBackOp_e (s : State) : s.writeBackOp.e = s.e := by
  unfold State.writeBackOp; split <;> simp
@[simp] theorem State.writeBackOp_procPresent (s : State) : s.writeBackOp.procPresent = s.procPresent := by
  unfold State.writeBackOp; split <;> simp
@[simp] theorem State.writeBackOp_buf (s : State) : s.writeBackOp.buf = s.buf := by
  unfold State.writeBackOp; split <;> simp
@[simp] theorem State.writeBackOp_progLen (s : State) : s.writeBackOp.progLen = s.progLen := by
  unfold State.writeBackOp; split <;> simp
@[simp] theorem State.writeBackOp_off (s : State) : s.writeBackOp.off = s.off := by
  unfold State.writeBackOp; split <;> simp
@[simp] theorem State.writeBackOp_p (s : State) : s.writeBackOp.p = s.p := by
  unfold State.writeBackOp; split <;> simp
@[simp] theorem State.writeBackOp_nextOff (s : State) : s.writeBackOp.nextOff = s.nextOff := by
  unfold State.writeBackOp; split <;> simp
@[simp] theorem State.writeBackOp_op (s : State) : s.writeBackOp.op = s.op := by
  unfold State.writeBackOp; split <;> simp
@[simp] theorem State.writeBackOp_userdata (s : State) : s.writeBackOp.userdata = s.userdata := by
  unfold State.writeBackOp; split <;> simp
@[simp] theorem State.writeBackOp_phase (s : State) : s.writeBackOp.phase = s.phase := by
  unfold State.writeBackOp; split <;> simp
@[simp] theorem State.writeBackOp_host (s : State) : s.writeBackOp.host = s.host := by
  unfold State.writeBackOp; split <;> simp
@[simp] theorem State.writeBackOp_events (s : State) : s.writeBackOp.events = s.events := by
  unfold State.writeBackOp; split <;> simp

/-! Completion (40_lifecycle R140, R142). -/

@[simp] theorem State.completeOp_variant (s : State) : s.completeOp.variant = s.variant := by
  simp [State.completeOp]
@[simp] theorem State.completeOp_regs (s : State) : s.completeOp.regs = s.writeBackOp.regs := by
  simp [State.completeOp]
@[simp] theorem State.completeOp_st (s : State) : s.completeOp.st = .executeNext := by
  simp [State.completeOp]
@[simp] theorem State.completeOp_e (s : State) : s.completeOp.e = s.e := by
  simp [State.completeOp]
@[simp] theorem State.completeOp_procPresent (s : State) : s.completeOp.procPresent = s.procPresent := by
  simp [State.completeOp]
@[simp] theorem State.completeOp_buf (s : State) : s.completeOp.buf = s.buf := by
  simp [State.completeOp]
@[simp] theorem State.completeOp_progLen (s : State) : s.completeOp.progLen = s.progLen := by
  simp [State.completeOp]
@[simp] theorem State.completeOp_off (s : State) : s.completeOp.off = s.nextOff := by
  simp [State.completeOp]
@[simp] theorem State.completeOp_p (s : State) : s.completeOp.p = s.p := by
  simp [State.completeOp]
@[simp] theorem State.completeOp_nextOff (s : State) : s.completeOp.nextOff = s.nextOff := by
  simp [State.completeOp]
@[simp] theorem State.completeOp_op (s : State) : s.completeOp.op = .idle := by
  simp [State.completeOp]
@[simp] theorem State.completeOp_userdata (s : State) : s.completeOp.userdata = s.userdata := by
  simp [State.completeOp]
@[simp] theorem State.completeOp_phase (s : State) : s.completeOp.phase = s.phase := by
  simp [State.completeOp]
@[simp] theorem State.completeOp_host (s : State) : s.completeOp.host = s.host := by
  simp [State.completeOp]
@[simp] theorem State.completeOp_events (s : State) : s.completeOp.events = s.events := by
  simp [State.completeOp]

/-! One channel after a write to one. -/

@[simp] theorem State.chan_setChan_same (s : State) (c : Chan) (v : Channel) : (s.setChan c v).chan c = v := by
  simp [State.chan]

@[simp] theorem State.chan_setChan_of_ne (s : State) {c d : Chan} (v : Channel) (h : d ≠ c) :
    (s.setChan c v).chan d = s.chan d := by
  simp [State.chan, h]

end Sys2Proof.Machine
end

