-- ==== Sys2Proof/Laws/Frame.lean ====
section
/-! SUPPORT. The frame predicates of Safety.lean: how each follows from equal fields, and that they compose. -/

namespace Sys2Proof.Machine

/-- The program is the same where the four fields that make it up are. -/
theorem SameProgram.of_fields {s t : State} (hv : t.variant = s.variant) (hp : t.procPresent = s.procPresent)
    (hl : t.progLen = s.progLen) (hb : t.buf = s.buf) : SameProgram s t :=
  ⟨hv, hp, hl, hb, fun i => by simp only [State.byteAt, hl, hb]⟩

theorem SameProgram.refl (s : State) : SameProgram s s := SameProgram.of_fields rfl rfl rfl rfl

theorem SameProgram.trans {s t u : State} (h : SameProgram s t) (k : SameProgram t u) : SameProgram s u :=
  ⟨k.1.trans h.1, k.2.1.trans h.2.1, k.2.2.1.trans h.2.2.1, k.2.2.2.1.trans h.2.2.2.1,
    fun i => (k.2.2.2.2 i).trans (h.2.2.2.2 i)⟩

/-- The registers are the same where the register file is. -/
theorem SameRegisters.of_regs {s t : State} (h : t.regs = s.regs) : SameRegisters s t :=
  fun c => by simp only [State.chan, h]

/-- A register file that reads the same in every channel is the same. -/
theorem SameRegisters.regs_eq {s t : State} (h : SameRegisters s t) : t.regs = s.regs := RegFile.ext_get h

theorem SameRegisters.trans {s t u : State} (h : SameRegisters s t) (k : SameRegisters t u) : SameRegisters s u :=
  fun c => (k c).trans (h c)

/-- Replacing the registers of one channel leaves the other channels. -/
theorem SameOtherChannels.setChan (s : State) (c : Chan) (v : Channel) : SameOtherChannels c s (s.setChan c v) :=
  fun _ hd => State.chan_setChan_of_ne s v hd

/-- The write-back leaves the other channels. -/
theorem SameOtherChannels.writeBack (s : State) (u : Bool) (c : Chan) (a : Addr) (l : BitVec 17) :
    SameOtherChannels c s (s.writeBack u c a l) := by
  cases u
  · exact fun _ _ => rfl
  · exact SameOtherChannels.setChan s c _

/-- The host's calls see `s`, `e` and `userdata` and write `userdata` and the record of outputs: in two states equal in
these they leave the same. -/
theorem State.portCalls_congr (calls : List PortCall) : ∀ s t : State, s.userdata = t.userdata → s.events = t.events →
    s.st = t.st →
      (s.portCalls calls).userdata = (t.portCalls calls).userdata ∧ (s.portCalls calls).events = (t.portCalls calls).events := by
  induction calls with
  | nil => exact fun _ _ hu he _ => ⟨hu, he⟩
  | cons call calls ih =>
    intro s t hu he hs
    unfold State.portCalls
    apply ih <;> cases call <;> simp [State.portCall, hu, he, hs]

/-- A state inside `SendEnd` concludes with the latched result (60_exceptions R255). -/
theorem Concludes.of_phase {t : State} (h : t.phase = .inSendEnd) : Concludes t.latchedResult t := by
  refine ⟨h, fun calls more hc => ⟨t.dropEndReturn.endReturned calls, ?_, rfl, ?_⟩⟩
  · simp only [step, State.cycle, h, State.endMove, hc]
  · have he := (State.portCalls_congr calls t.dropEndReturn t rfl rfl rfl).2
    simp only [State.endReturned, State.returnCode_events, State.setOp_events, he, State.latchedResult,
      State.portCalls_st, State.portCalls_e]
    rfl

/-- END and the end of the buffer (41_end_config R160, 40_lifecycle R130). -/
theorem Concludes.endRun (s : State) : Concludes 0 s.endRun := Concludes.of_phase (t := s.endRun) rfl

/-- The latch (60_exceptions R255). -/
theorem Latched.latch (s : State) (k : Byte) : Latched k s (s.latch k) :=
  ⟨rfl, rfl, rfl, Concludes.of_phase (t := s.latch k) rfl⟩

end Sys2Proof.Machine
end

