-- ==== Sys2Proof/Laws/Memory.lean ====
section
/-! SUPPORT. The laws of the program buffer: a read after a write, and that every operation keeps the canonical form. -/

namespace Sys2Proof.Machine

@[simp] theorem Memory.get_nil (a : Nat) : Memory.get [] a = Memory.unlisted := rfl

/-- Every offset of a buffer whose cells all lie above it reads as not listed. -/
theorem Memory.get_eq_unlisted {m : Memory} {a : Nat} (h : ∀ c ∈ m, c.1 ≠ a) : Memory.get m a = Memory.unlisted := by
  induction m with
  | nil => rfl
  | cons c m ih =>
    have hc : c.1 ≠ a := h c (by simp)
    simp [Memory.get, hc, ih (fun d hd => h d (by simp [hd]))]

theorem Memory.get_put_same {m : Memory} (hm : Memory.wf m) (a : Nat) (b : Byte) :
    Memory.get (Memory.put m a b) a = b := by
  induction m with
  | nil => by_cases hb : b = Memory.unlisted <;> simp [Memory.put, Memory.get, hb]
  | cons c m ih =>
    obtain ⟨k, v⟩ := c
    obtain ⟨hp, hu⟩ := hm
    rw [List.pairwise_cons] at hp
    have above : ∀ d ∈ m, k < d.1 := fun d hd => hp.1 d hd
    simp only [Memory.put]
    split
    · rename_i hlt
      split
      · rename_i hb
        have h0 : Memory.get m a = Memory.unlisted :=
          Memory.get_eq_unlisted (fun d hd => by have := above d hd; omega)
        simp [Memory.get, show k ≠ a by omega, h0, hb]
      · simp [Memory.get]
    · split
      · rename_i hlt heq
        split
        · rename_i hb
          rw [hb]
          exact Memory.get_eq_unlisted (fun d hd => by have := above d hd; omega)
        · simp [Memory.get]
      · rename_i hlt hne
        rw [Memory.get, if_neg (Ne.symm hne)]
        exact ih ⟨hp.2, fun d hd => hu d (by simp [hd])⟩

theorem Memory.get_put_of_ne (m : Memory) {a x : Nat} (b : Byte) (hx : x ≠ a) :
    Memory.get (Memory.put m a b) x = Memory.get m x := by
  induction m with
  | nil => by_cases hb : b = Memory.unlisted <;> simp [Memory.put, Memory.get, hb, Ne.symm hx]
  | cons c m ih =>
    obtain ⟨k, v⟩ := c
    simp only [Memory.put]
    split
    · split <;> simp [Memory.get, Ne.symm hx]
    · split
      · rename_i heq
        split <;> simp [Memory.get, ← heq, Ne.symm hx]
      · simp [Memory.get, ih]

/-- Every cell after a `put` is the cell put or was there before. -/
theorem Memory.mem_put {m : Memory} {a : Nat} {b : Byte} {c : Host.Cell} (h : c ∈ Memory.put m a b) :
    (c = (a, b) ∧ b ≠ Memory.unlisted) ∨ c ∈ m := by
  induction m with
  | nil =>
    by_cases hb : b = Memory.unlisted <;> simp [Memory.put, hb] at h
    exact .inl ⟨h, hb⟩
  | cons d m ih =>
    obtain ⟨k, v⟩ := d
    simp only [Memory.put] at h
    split at h
    · split at h
      · exact .inr h
      · rename_i hb
        rcases List.mem_cons.mp h with h | h
        · exact .inl ⟨h, hb⟩
        · exact .inr h
    · split at h
      · split at h
        · exact .inr (by simp [h])
        · rename_i hb
          rcases List.mem_cons.mp h with h | h
          · exact .inl ⟨h, hb⟩
          · exact .inr (by simp [h])
      · rcases List.mem_cons.mp h with h | h
        · exact .inr (by simp [h])
        · rcases ih h with h | h
          · exact .inl h
          · exact .inr (by simp [h])

theorem Memory.wf_nil : Memory.wf [] := by simp [Memory.wf]

theorem Memory.wf_put {m : Memory} (hm : Memory.wf m) (a : Nat) (b : Byte) : Memory.wf (Memory.put m a b) := by
  refine ⟨?_, ?_⟩
  · induction m with
    | nil => by_cases hb : b = Memory.unlisted <;> simp [Memory.put, hb]
    | cons c m ih =>
      obtain ⟨k, v⟩ := c
      obtain ⟨hp, hu⟩ := hm
      have hp' := List.pairwise_cons.mp hp
      simp only [Memory.put]
      split
      · rename_i hlt
        split
        · exact hp
        · refine List.pairwise_cons.mpr ⟨?_, hp⟩
          intro d hd
          rcases List.mem_cons.mp hd with rfl | hd
          · exact hlt
          · exact Nat.lt_trans hlt (hp'.1 d hd)
      · split
        · rename_i heq
          split
          · exact hp'.2
          · exact List.pairwise_cons.mpr ⟨fun d hd => by have := hp'.1 d hd; simpa [heq] using this, hp'.2⟩
        · rename_i hlt hne
          refine List.pairwise_cons.mpr ⟨?_, ih ⟨hp'.2, fun d hd => hu d (by simp [hd])⟩⟩
          intro d hd
          rcases Memory.mem_put hd with ⟨rfl, -⟩ | hd
          · show k < a
            omega
          · exact hp'.1 d hd
  · intro c hc
    rcases Memory.mem_put hc with ⟨rfl, hb⟩ | hc
    · exact hb
    · exact hm.2 c hc

theorem Memory.wf_putBytes (bs : List Byte) :
    ∀ {m : Memory} (_ : Memory.wf m) (a : Nat), Memory.wf (Memory.putBytes m a bs) := by
  induction bs with
  | nil => intro m hm a; exact hm
  | cons b bs ih => intro m hm a; exact ih (Memory.wf_put hm a b) (a + 1)

theorem Memory.wf_ofCells (bound : Nat) (cells : List Host.Cell) : Memory.wf (Memory.ofCells bound cells) := by
  induction cells with
  | nil => exact Memory.wf_nil
  | cons c cells ih =>
    obtain ⟨a, b⟩ := c
    simp only [Memory.ofCells]
    split
    · exact Memory.wf_put ih a b
    · exact ih

theorem Memory.wf_below {m : Memory} (hm : Memory.wf m) (bound : Nat) : Memory.wf (Memory.below bound m) :=
  ⟨hm.1.filter _, fun c hc => hm.2 c (List.mem_of_mem_filter hc)⟩

/-- A buffer made from cells holds nothing at or above the bound. -/
theorem Memory.ofCells_lt {bound : Nat} {cells : List Host.Cell} {c : Host.Cell}
    (h : c ∈ Memory.ofCells bound cells) : c.1 < bound := by
  induction cells with
  | nil => simp [Memory.ofCells] at h
  | cons d cells ih =>
    obtain ⟨a, b⟩ := d
    simp only [Memory.ofCells] at h
    split at h
    · rename_i ha
      rcases Memory.mem_put h with ⟨rfl, -⟩ | h
      · exact ha
      · exact ih h
    · exact ih h

/-- What a buffer made from cells holds: below the bound, the byte of the first cell for that offset. -/
theorem Memory.get_ofCells (bound a : Nat) (cells : List Host.Cell) :
    Memory.get (Memory.ofCells bound cells) a = if a < bound then Memory.get cells a else Memory.unlisted := by
  induction cells with
  | nil => simp [Memory.ofCells]
  | cons c cells ih =>
    obtain ⟨k, v⟩ := c
    by_cases hk : k < bound
    · by_cases hka : a = k
      · subst hka
        simp [Memory.ofCells, hk, Memory.get_put_same (Memory.wf_ofCells bound cells), Memory.get]
      · simp [Memory.ofCells, hk, Memory.get_put_of_ne _ v hka, ih, Memory.get, Ne.symm hka]
    · simp only [Memory.ofCells, hk, if_false, ih, Memory.get]
      split
      · rw [if_neg (by omega)]
      · rfl

@[simp] theorem Memory.length_bytes (m : Memory) (n : Nat) : ∀ a, (Memory.bytes m a n).length = n := by
  induction n with
  | zero => intro a; rfl
  | succ n ih => intro a; simp [Memory.bytes, ih]

/-- Byte `i` of a read of `n` bytes. -/
theorem Memory.bytes_getElem (m : Memory) (n : Nat) :
    ∀ (a i : Nat) (h : i < (Memory.bytes m a n).length), (Memory.bytes m a n)[i] = Memory.get m (a + i) := by
  induction n with
  | zero => intro a i h; simp [Memory.bytes] at h
  | succ n ih =>
    intro a i h
    cases i with
    | zero => rfl
    | succ i =>
      have h' : i < (Memory.bytes m (a + 1) n).length := by simpa [Memory.bytes] using h
      have := ih (a + 1) i h'
      simpa [Memory.bytes, Nat.add_assoc, Nat.add_comm 1 i] using this

end Sys2Proof.Machine
end

