-- ==== Sys2Proof/Laws/PerInstr.lean ====
section
/-! SUPPORT. The per-instruction family EncodingRow: the encoding of every instruction is as long as the decoder takes,
and its instruction byte is one of its own row of the opcode table (spec 30_encoding R91, R94; 46_minimal_variant
R231, R232). -/

namespace Sys2Proof.Laws.EncodingRow

/-- The encoding of `i` has the length of its format, and its first byte matches its row of the opcode table. -/
def Statement (i : Instr) : Prop :=
  (encode i).length = instrSize i ∧
    ∃ ib ops, encode i = ib :: ops ∧ ib &&& opcodeMask i.variant = opcodeMatch i

/-- A C16 instruction byte under the mask of the table is its opcode. -/
theorem mkinst_row (o : BitVec 4) (c : Chan) : mkinst o c &&& 0xCF = o.setWidth 8 := by
  revert o
  cases c <;> decide

/-- An M4 instruction byte under the mask of the table is its opcode. -/
theorem mkinstM4_row (o : BitVec 2) (q : CmpOp) : mkinstM4 o q &&& 0xE3 = o.setWidth 8 := by
  revert o q
  decide

theorem endProc : Statement (.endProc) :=
  ⟨rfl, _, _, rfl, mkinst_row _ _⟩

theorem seta8 (c : Chan) (imm : BitVec 8) : Statement (.seta8 c imm) :=
  ⟨rfl, _, _, rfl, mkinst_row _ _⟩

theorem seta16 (c : Chan) (imm : BitVec 16) : Statement (.seta16 c imm) :=
  ⟨rfl, _, _, rfl, mkinst_row _ _⟩

theorem seta24 (c : Chan) (imm : BitVec 24) : Statement (.seta24 c imm) :=
  ⟨rfl, _, _, rfl, mkinst_row _ _⟩

theorem settv (c : Chan) (imm : BitVec 8) : Statement (.settv c imm) :=
  ⟨rfl, _, _, rfl, mkinst_row _ _⟩

theorem setlen (c : Chan) (imm : BitVec 16) : Statement (.setlen c imm) :=
  ⟨rfl, _, _, rfl, mkinst_row _ _⟩

theorem setcmpmsk (c : Chan) (cmpv : BitVec 8) (mskv : BitVec 8) : Statement (.setcmpmsk c cmpv mskv) :=
  ⟨rfl, _, _, rfl, mkinst_row _ _⟩

theorem settim (c : Chan) (imm : BitVec 32) : Statement (.settim c imm) :=
  ⟨rfl, _, _, rfl, mkinst_row _ _⟩

theorem read (c : Chan) : Statement (.read c) :=
  ⟨rfl, _, _, rfl, mkinst_row _ _⟩

theorem write (c : Chan) : Statement (.write c) :=
  ⟨rfl, _, _, rfl, mkinst_row _ _⟩

theorem waitWhileNeq (c : Chan) : Statement (.waitWhileNeq c) :=
  ⟨rfl, _, _, rfl, mkinst_row _ _⟩

theorem waitWhileEq (c : Chan) : Statement (.waitWhileEq c) :=
  ⟨rfl, _, _, rfl, mkinst_row _ _⟩

theorem waitWhileLt (c : Chan) : Statement (.waitWhileLt c) :=
  ⟨rfl, _, _, rfl, mkinst_row _ _⟩

theorem waitWhileGt (c : Chan) : Statement (.waitWhileGt c) :=
  ⟨rfl, _, _, rfl, mkinst_row _ _⟩

theorem waitWhileLte (c : Chan) : Statement (.waitWhileLte c) :=
  ⟨rfl, _, _, rfl, mkinst_row _ _⟩

theorem waitWhileGte (c : Chan) : Statement (.waitWhileGte c) :=
  ⟨rfl, _, _, rfl, mkinst_row _ _⟩

theorem m4Read (chip : Byte) (address : Addr) (len : Byte) : Statement (.m4Read chip address len) :=
  ⟨rfl, _, _, rfl, mkinstM4_row _ _⟩

theorem m4Write (chip : Byte) (address : Addr) (len : Byte) : Statement (.m4Write chip address len) :=
  ⟨rfl, _, _, rfl, mkinstM4_row _ _⟩

theorem m4WaitUntil (q : CmpOp) (chip : Byte) (address : Addr) (value : Byte) (mask : Byte) : Statement (.m4WaitUntil q chip address value mask) :=
  ⟨rfl, _, _, rfl, mkinstM4_row _ _⟩

theorem m4AbortUnless (q : CmpOp) (chip : Byte) (address : Addr) (value : Byte) (mask : Byte) : Statement (.m4AbortUnless q chip address value mask) :=
  ⟨rfl, _, _, rfl, mkinstM4_row _ _⟩

end Sys2Proof.Laws.EncodingRow
end

