-- ==== Sys2Proof/Laws/Step.lean ====
section
/-! SUPPORT. What the shared operations and one step can do, each said once, so that later proofs cite these lemmas and
unfold nothing. -/

namespace Sys2Proof.Machine

/-! ## Instructions -/

/-- Everything an instruction can do: end the run, replace the registers of one channel, enter an operation, or invoke
the probe. -/
theorem exec_cases {i : Instr} {s t : State} (h : exec i s = .next t) :
    t = s.endRun ∨
    (∃ c v, t = s.setChan c v) ∨
    (∃ rd, t = s.enterRead rd) ∨
    (∃ wr, t = s.enterWrite wr) ∨
    (∃ wa, t = s.enterWait wa) ∨
    (∃ pr, t = s.invokeProbe pr) := by
  cases i <;> cases h
  case endProc => exact .inl rfl
  case seta8 | seta16 | seta24 | settv | setlen | setcmpmsk | settim => exact .inr (.inl ⟨_, _, rfl⟩)
  case read | m4Read => exact .inr (.inr (.inl ⟨_, rfl⟩))
  case write | m4Write => exact .inr (.inr (.inr (.inl ⟨_, rfl⟩)))
  case m4AbortUnless => exact .inr (.inr (.inr (.inr (.inr ⟨_, rfl⟩))))
  all_goals exact .inr (.inr (.inr (.inr (.inl ⟨_, rfl⟩))))

/-- Entering a WRITE enters the operation or latches OutOfRange (43_write R191). -/
theorem State.enterWrite_cases (s : State) (wr : WriteRec) :
    (s.off.toNat + wr.length.toNat ≤ s.progLen.toNat ∧
      s.enterWrite wr = s.enterOp (.write wr) (s.off + wr.length.setWidth 32) .write) ∨
    (s.progLen.toNat < s.off.toNat + wr.length.toNat ∧ s.enterWrite wr = s.latch ErrCode.outOfRange) := by
  by_cases h : s.off.toNat + wr.length.toNat ≤ s.progLen.toNat
  · exact .inl ⟨h, by simp [State.enterWrite, State.payloadFits, h]⟩
  · exact .inr ⟨by omega, by simp [State.enterWrite, State.payloadFits, h]⟩

/-! ## Answers -/

/-- Everything the answer to `HostOp` can do (40_lifecycle R140). -/
theorem State.answerOp_cases {s u : State} {ans : OpAnswer} (h : s.answerOp ans = .next u) :
    s.op.serves s.st ∧
    ((ans.err ≠ ErrCode.success ∧ u = (s.portCalls ans.calls).latch ans.err) ∨
     (ans.err = ErrCode.success ∧ ans.opstate = .completed ∧
        u = ((s.portCalls ans.calls).setOp (s.op.setOpstate ans.opstate)).completeOp.returnCode ErrCode.success) ∨
     (ans.err = ErrCode.success ∧ ans.opstate ≠ .completed ∧
        u = ((s.portCalls ans.calls).setOp (s.op.setOpstate ans.opstate)).returnCode ErrCode.success)) := by
  simp only [State.answerOp, State.portCalls_op, State.portCalls_st] at h
  split at h
  case isFalse => cases h
  case isTrue hs =>
    refine ⟨hs, ?_⟩
    split at h
    case isTrue he => cases h; exact .inl ⟨he, rfl⟩
    case isFalse he =>
      have he' : ans.err = ErrCode.success := by simpa using he
      split at h
      case isTrue hc => cases h; exact .inr (.inl ⟨he', hc, rfl⟩)
      case isFalse hc => cases h; exact .inr (.inr ⟨he', hc, rfl⟩)

/-- Everything the answer to the probe of an ABORT can do (45_abort R221). -/
theorem State.answerProbe_cases (s : State) (pr : ProbeRec) (ans : ProbeAnswer) :
    (ans.err ≠ ErrCode.success ∧ s.answerProbe pr ans = (s.portCalls ans.calls).latch ans.err) ∨
    (ans.err = ErrCode.success ∧ pr.aborts ans.byte ∧
      s.answerProbe pr ans = (s.portCalls ans.calls).latch ErrCode.aborted) ∨
    (ans.err = ErrCode.success ∧ pr.aborts ans.byte = false ∧
      s.answerProbe pr ans = { s.portCalls ans.calls with phase := .decoding }) := by
  unfold State.answerProbe
  by_cases he : ans.err = ErrCode.success
  · cases pr.aborts ans.byte <;> simp [he]
  · simp [he]

/-! ## Commands -/

/-- Everything the start of `exec` can do (40_lifecycle R125). -/
theorem State.startExec_cases {s t : State} (h : s.startExec = .next t) :
    ((s.st = .errored ∨ s.st = .ended) ∧ t = s.returnCode s.latchedResult) ∨
    ((s.st = .read ∨ s.st = .write ∨ s.st = .wait) ∧ s.op.serves s.st ∧ t = s.invokeHostOp) ∨
    (s.st = .init ∧ t = s.returnCode ErrCode.invalidOperationForState) ∨
    ((s.st = .loaded ∨ s.st = .reset) ∧ t = { s.zeroPerRun with st := .executeNext, phase := .decoding }) ∨
    (s.st = .executeNext ∧ t = { s with phase := .decoding }) := by
  unfold State.startExec at h
  split at h
  all_goals first | (split at h) | skip
  all_goals cases h
  all_goals simp_all

/-! ## The decoder -/

/-- Without a byte there is nothing to decode (40_lifecycle R130). -/
@[simp] theorem decode_nil (v : Variant) : decode v [] = .noByte := rfl

/-- The window is empty exactly where the buffer is exhausted (40_lifecycle R130). -/
theorem State.window_eq_nil_iff (s : State) : s.window = [] ↔ s.progLen.toNat ≤ s.off.toNat := by
  rw [← List.length_eq_zero_iff, State.window, Memory.length_bytes, maxInstrSize]
  omega

@[simp] theorem State.length_window (s : State) :
    s.window.length = min maxInstrSize (s.progLen.toNat - s.off.toNat) := by simp [State.window]

/-! ## One step -/

/-- Everything one step can do, by the phase. -/
theorem step_cases {s t : State} (h : step s = .next t) :
    (s.phase = .idle ∧ s.host.commands = [] ∧ t = s) ∨
    (∃ c cs, s.phase = .idle ∧ s.host.commands = c :: cs ∧ s.dropCommand.runCommand c = .next t) ∨
    (s.phase = .decoding ∧ s.turn = .next t) ∨
    (s.phase = .inHostOp ∧ s.host.opAnswers = [] ∧ t = s) ∨
    (∃ a as, s.phase = .inHostOp ∧ s.host.opAnswers = a :: as ∧ s.dropOpAnswer.answerOp a = .next t) ∨
    (∃ pr, s.phase = .inProbe pr ∧ s.host.probeAnswers = [] ∧ t = s) ∨
    (∃ pr a as, s.phase = .inProbe pr ∧ s.host.probeAnswers = a :: as ∧ t = s.dropProbeAnswer.answerProbe pr a) ∨
    (s.phase = .inSendEnd ∧ s.host.endReturns = [] ∧ t = s) ∨
    (∃ calls more, s.phase = .inSendEnd ∧ s.host.endReturns = calls :: more ∧
      t = s.dropEndReturn.endReturned calls) := by
  unfold step State.cycle at h
  split at h
  case h_1 hp =>
    unfold State.idleMove at h
    split at h
    case h_1 hc => cases h; exact .inl ⟨hp, hc, rfl⟩
    case h_2 c cs hc => exact .inr (.inl ⟨c, cs, hp, hc, h⟩)
  case h_2 hp => exact .inr (.inr (.inl ⟨hp, h⟩))
  case h_3 hp =>
    unfold State.opMove at h
    split at h
    case h_1 hc => cases h; exact .inr (.inr (.inr (.inl ⟨hp, hc, rfl⟩)))
    case h_2 a as hc => exact .inr (.inr (.inr (.inr (.inl ⟨a, as, hp, hc, h⟩))))
  case h_4 pr hp =>
    unfold State.probeMove at h
    split at h
    case h_1 hc => cases h; exact .inr (.inr (.inr (.inr (.inr (.inl ⟨pr, hp, hc, rfl⟩)))))
    case h_2 a as hc => cases h; exact .inr (.inr (.inr (.inr (.inr (.inr (.inl ⟨pr, a, as, hp, hc, rfl⟩))))))
  case h_5 hp =>
    unfold State.endMove at h
    split at h
    case h_1 hc => cases h; exact .inr (.inr (.inr (.inr (.inr (.inr (.inr (.inl ⟨hp, hc, rfl⟩)))))))
    case h_2 calls more hc =>
      cases h
      exact .inr (.inr (.inr (.inr (.inr (.inr (.inr (.inr ⟨calls, more, hp, hc, rfl⟩)))))))

/-- Everything one turn of the decoder loop can do (40_lifecycle R129). -/
theorem State.turn_cases {s t : State} (h : s.turn = .next t) :
    (s.decoded = .noByte ∧ t = s.endRun) ∨
    (s.decoded = .unknownOpcode ∧ t = (s.beginInstr 1).latch ErrCode.unknownOpcode) ∨
    (s.decoded = .truncated ∧ t = (s.beginInstr 1).latch ErrCode.outOfRange) ∨
    (∃ i rest, s.decoded = .instr i rest ∧ exec i (s.beginInstr (instrSize i)) = .next t) := by
  unfold State.turn at h
  split at h
  case h_1 hd => cases h; exact .inl ⟨hd, rfl⟩
  case h_2 hd => cases h; exact .inr (.inl ⟨hd, rfl⟩)
  case h_3 hd => cases h; exact .inr (.inr (.inl ⟨hd, rfl⟩))
  case h_4 i rest hd => exact .inr (.inr (.inr ⟨i, rest, hd, h⟩))

end Sys2Proof.Machine
end

