-- ==== Sys2Proof/Tests/Slice0.lean ====
section
/-! SUPPORT. The model's own tests. The expected results come from the spec's vectors (95_test_vectors) and from its
encoding tables, never from the model. After them, for every statement with hypotheses, a concrete state and operands
that meet the hypotheses together (`witness_…`). -/

namespace Sys2Proof.Tests

open Sys2Proof.Machine

/-! ## Small states -/

/-- A build of variant `v` at the top of the decoder loop, with this procedure, at offset 0. -/
def at0 (v : Variant) (bs : List Byte) : State :=
  { State.reset with
    variant := v, st := .executeNext, procPresent := true, buf := Memory.putBytes [] 0 bs
    progLen := BitVec.ofNat 32 bs.length, phase := .decoding }

/-- The state after one step; a stop leaves the state. -/
def after (s : State) : State :=
  match step s with
  | .next t => t
  | .fault _ | .refused _ => s

/-- A state with channel 0 set to these registers. -/
def withChan0 (s : State) (a : Addr) (tv : BitVec 8) (len : BitVec 17) : State :=
  s.setChan .c0 { Channel.reset with a := a, tv := tv, len := len }

/-- The host answers `HostOp` so, once. -/
def answering (s : State) (opstate : OpState) (err : Byte) : State :=
  { s with host := { s.host with opAnswers := [{ calls := [], opstate := opstate, err := err }] } }

/-- The host answers the probe so, once. -/
def probing (s : State) (err byte : Byte) : State :=
  { s with host := { s.host with probeAnswers := [{ calls := [], err := err, byte := byte }] } }

/-- The host issues this command. -/
def commanding (s : State) (c : Command) : State := { s with host := { s.host with commands := [c] } }

/-! ## Well-formedness (00_scope R2: a build has one variant) -/

theorem test_wf_refuses_c16_in_m4 : ¬ WellFormed .m4 (.seta8 .c0 0xAB) := by decide
theorem test_wf_refuses_m4_in_c16 : ¬ WellFormed .c16 (.m4Read 0x02 0xF50010 0x00) := by decide

/-! ## Decoding, each word written out from the encoding tables (30_encoding R90, R94; 46_minimal_variant R231, R232;
the bytes of 95_test_vectors 2.1, 2.2 and 2.7) -/

theorem test_dec_end : decode .c16 [0b00_11_0000] = .instr .endProc [] := by decide
theorem test_dec_seta8 : decode .c16 [0b00_00_0001, 0xAB] = .instr (.seta8 .c0 0xAB) [] := by decide
theorem test_dec_seta16 : decode .c16 [0b00_01_0010, 0xCD, 0xAB] = .instr (.seta16 .c1 0xABCD) [] := by decide
theorem test_dec_seta24 : decode .c16 [0b00_10_0011, 0x10, 0x00, 0xF5] = .instr (.seta24 .c2 0xF50010) [] := by decide
theorem test_dec_settv : decode .c16 [0b00_11_0100, 0xC5] = .instr (.settv .c3 0xC5) [] := by decide
theorem test_dec_setlen : decode .c16 [0b00_00_0101, 0x00, 0x01] = .instr (.setlen .c0 0x0100) [] := by decide
theorem test_dec_setcmpmsk : decode .c16 [0b00_01_0110, 0x12, 0x34] = .instr (.setcmpmsk .c1 0x12 0x34) [] := by decide
theorem test_dec_settim : decode .c16 [0b00_10_0111, 0x78, 0x56, 0x34, 0x12] = .instr (.settim .c2 0x12345678) [] := by
  decide
theorem test_dec_read : decode .c16 [0b00_10_1000, 0x00] = .instr (.read .c2) [0x00] := by decide
theorem test_dec_write : decode .c16 [0b00_11_1001, 0xAA, 0x55] = .instr (.write .c3) [0xAA, 0x55] := by decide
theorem test_dec_neq : decode .c16 [0b00_00_1010] = .instr (.waitWhileNeq .c0) [] := by decide
theorem test_dec_eq : decode .c16 [0b00_01_1011] = .instr (.waitWhileEq .c1) [] := by decide
theorem test_dec_lt : decode .c16 [0b00_10_1100] = .instr (.waitWhileLt .c2) [] := by decide
theorem test_dec_gt : decode .c16 [0b00_11_1101] = .instr (.waitWhileGt .c3) [] := by decide
theorem test_dec_lte : decode .c16 [0b00_00_1110] = .instr (.waitWhileLte .c0) [] := by decide
theorem test_dec_gte : decode .c16 [0b00_11_1111] = .instr (.waitWhileGte .c3) [] := by decide
theorem test_dec_unknown : decode .c16 [0x40] = .unknownOpcode ∧ decode .c16 [0x80] = .unknownOpcode ∧
    decode .c16 [0xC0] = .unknownOpcode ∧ decode .c16 [0xFF] = .unknownOpcode := by decide
theorem test_dec_m4_read : decode .m4 [0b000_000_00, 0x02, 0x10, 0x00, 0xF5, 0x00] =
    .instr (.m4Read 0x02 0xF50010 0x00) [] := by decide
theorem test_dec_m4_read_q_ignored : decode .m4 [0x1C, 0x02, 0x10, 0x00, 0xF5, 0x07] =
    .instr (.m4Read 0x02 0xF50010 0x07) [] := by decide
theorem test_dec_m4_write : decode .m4 [0b000_000_01, 0x02, 0x10, 0x00, 0xF5, 0x01, 0xAA] =
    .instr (.m4Write 0x02 0xF50010 0x01) [0xAA] := by decide
theorem test_dec_m4_wait : decode .m4 [0b000_101_10, 0x02, 0x10, 0x00, 0xF5, 0x55, 0x0F] =
    .instr (.m4WaitUntil 5 0x02 0xF50010 0x55 0x0F) [] := by decide
theorem test_dec_m4_abort : decode .m4 [0b000_011_11, 0x02, 0x10, 0x00, 0xF5, 0x55, 0x0F] =
    .instr (.m4AbortUnless 3 0x02 0xF50010 0x55 0x0F) [] := by decide
theorem test_dec_m4_unknown : decode .m4 [0x20] = .unknownOpcode ∧ decode .m4 [0x83] = .unknownOpcode ∧
    decode .m4 [0xFF] = .unknownOpcode := by decide

/-- A table word is laid out with its first byte in the low bits. -/
theorem test_table_word : decodeTableWord 32 0xF5001023 = some (.seta24 .c2 0xF50010) ∧
    decodeTableWord 8 0x28 = some (.read .c2) ∧ decodeTableWord 8 0x40 = none ∧
    decodeTableWord 48 0x00F500100200 = some (.m4Read 0x02 0xF50010 0x00) := by decide

/-- An instruction placed at reset is what the next step runs. -/
theorem test_fetch_word : (after (State.reset.withFetchWord 32 0xF5001023)).chan .c2 =
    { Channel.reset with a := 0xF50010 } := by decide

/-! ## END and the configuration opcodes (95_test_vectors S2, 2.2) -/

theorem test_end : (after (at0 .c16 [0x00])).st = .ended ∧ (after (at0 .c16 [0x00])).off = 1 ∧
    (after (at0 .c16 [0x00])).events = [.sendEnd .ended 0 0] := by decide
theorem test_seta8_replaces : ((after ((at0 .c16 [0x11, 0x00]).setChan .c1 { Channel.reset with a := 0x123456 })).chan
    .c1).a = 0 := by decide
theorem test_seta16_replaces : ((after ((at0 .c16 [0x12, 0xCD, 0xAB]).setChan .c1
    { Channel.reset with a := 0x123456 })).chan .c1).a = 0x00ABCD := by decide
theorem test_seta24 : ((after (at0 .c16 [0x33, 0x56, 0x34, 0x12])).chan .c3).a = 0x123456 := by decide
theorem test_seta24_truncated : (after (at0 .c16 [0x03, 0x10, 0x00])).e = 1 ∧
    (after (at0 .c16 [0x03, 0x10, 0x00])).st = .errored ∧ (after (at0 .c16 [0x03, 0x10, 0x00])).off = 1 ∧
    ((after (at0 .c16 [0x03, 0x10, 0x00])).chan .c0).a = 0 := by decide
theorem test_settv : ((after (at0 .c16 [0x04, 0xFF])).chan .c0).tv = 0xFF := by decide
theorem test_setlen_zero : ((after (at0 .c16 [0x05, 0x00, 0x00])).chan .c0).len = 65536 := by decide
theorem test_setlen_bytes : ((after (at0 .c16 [0x15, 0x00, 0x01])).chan .c1).len = 256 := by decide
theorem test_setcmpmsk : ((after (at0 .c16 [0x06, 0x12, 0x34])).chan .c0).cmp = 0x12 ∧
    ((after (at0 .c16 [0x06, 0x12, 0x34])).chan .c0).msk = 0x34 := by decide
theorem test_settim : ((after (at0 .c16 [0x37, 0x78, 0x56, 0x34, 0x12])).chan .c3).tim = 0x12345678 := by decide

/-! ## READ and WRITE (95_test_vectors 2.3, 2.4) -/

theorem test_read_record : (after (withChan0 (at0 .c16 [0x08]) 0x000100 0x41 65536)).op =
    .read { opstate := .init, ch := .c0, chip := 1, address := 0x000100, lengthRaw := 0, length := 65536,
            adv := false, upd := true } := by decide
theorem test_read_wraps : ((after (after (answering (withChan0 (at0 .c16 [0x08]) 0xFFFFFF 0x40 2) .completed 0))).chan
    .c0).a = 0x000001 := by decide
theorem test_write_record : (after (withChan0 (at0 .c16 [0x09, 0xAA, 0x55]) 0 0 2)).op =
    .write { opstate := .init, ch := .c0, chip := 0, address := 0, lengthRaw := 2, length := 2, adv := false,
             upd := false, dataOffset := 1 } := by decide
theorem test_write_truncated : (after (at0 .c16 [0x09, 0xAA])).e = 1 ∧ (after (at0 .c16 [0x09, 0xAA])).off = 1 ∧
    (after (at0 .c16 [0x09, 0xAA])).op = .idle := by decide

/-! ## The comparisons and the WAIT family (95_test_vectors 2.5) -/

theorem test_cmp_unsigned : cmpBytes 2 0x80 0x7F = false ∧ cmpBytes 4 0x80 0x7F = true := by decide

/-- The table of `WaitTest(b)` with `cmp = 0x10`, `msk = 0x1F`, for the bytes F0, EF and 31. -/
def waitRow (ib : Byte) : List (Option Bool) :=
  let s := after ((at0 .c16 [ib]).setChan .c0 { Channel.reset with cmp := 0x10, msk := 0x1F })
  [s.waitTest 0xF0, s.waitTest 0xEF, s.waitTest 0x31]

theorem test_wait_neq : waitRow 0x0A = [some true, some false, some false] := by decide
theorem test_wait_eq : waitRow 0x0B = [some false, some true, some true] := by decide
theorem test_wait_lt : waitRow 0x0C = [some true, some false, some true] := by decide
theorem test_wait_gt : waitRow 0x0D = [some true, some true, some false] := by decide
theorem test_wait_lte : waitRow 0x0E = [some false, some false, some true] := by decide
theorem test_wait_gte : waitRow 0x0F = [some false, some true, some false] := by decide

/-! ## M4 (95_test_vectors 2.6, 2.7) -/

theorem test_m4_read : (after (at0 .m4 [0x00, 0x02, 0x10, 0x00, 0xF5, 0x00])).op =
    .read { opstate := .init, ch := .c0, chip := 2, address := 0xF50010, lengthRaw := 0, length := 256, adv := true,
            upd := false } := by decide
theorem test_m4_write_truncated : (after (at0 .m4 [0x01, 0x02, 0x10, 0x00, 0xF5, 0x02, 0xAA])).e = 1 := by decide
theorem test_m4_wait_until : (after (at0 .m4 [0x06, 0x02, 0x10, 0x00, 0xF5, 0x55, 0xFF])).waitTest 0x55 = some false ∧
    (after (at0 .m4 [0x06, 0x02, 0x10, 0x00, 0xF5, 0x55, 0xFF])).waitTest 0x54 = some true := by decide
theorem test_m4_abort : (after (after (probing (at0 .m4 [0x03, 0, 0, 0, 0, 0x01, 0x01]) 0 0x02))).e = 5 ∧
    (after (after (probing (at0 .m4 [0x03, 0, 0, 0, 0, 0x01, 0x01]) 0 0x03))).phase = .decoding := by decide
theorem test_m4_abort_probe_error : (after (after (probing (at0 .m4 [0x03, 0, 0, 0, 0, 0x55, 0xFF]) 8 0x00))).e = 8 := by
  decide

/-! ## Commands (95_test_vectors 2.8) -/

theorem test_exec_in_init : (after (commanding State.reset .exec)).events = [.returned 2] := by decide
theorem test_load_absent : (after (commanding State.reset (.load none 0))).events = [.returned 1] := by decide
theorem test_load : (after (commanding State.reset (.load (some [(0, 0x30), (1, 0x44)]) 1))).st = .loaded ∧
    (after (commanding State.reset (.load (some [(0, 0x30), (1, 0x44)]) 1))).byteAt 0 = some 0x30 ∧
    (after (commanding State.reset (.load (some [(0, 0x30), (1, 0x44)]) 1))).byteAt 1 = none := by decide

/-! ## Witnesses: the states -/

/-- A READ of 2 bytes on channel 2 with write-back, `HostOp` invoked (95_test_vectors S3). -/
def reading : State :=
  after (State.setChan (at0 .c16 [0x28, 0x00]) .c2 { Channel.reset with a := 0xF50010, tv := 0x40, len := 2 })

/-- A WRITE of 2 bytes on channel 3 with write-back, `HostOp` invoked (95_test_vectors S4). -/
def writing : State :=
  after (State.setChan (at0 .c16 [0x39, 0xAA, 0x55]) .c3 { Channel.reset with tv := 0x40, len := 2 })

/-- A WAIT on channel 2, `HostOp` invoked (95_test_vectors S5). -/
def waiting : State :=
  after (State.setChan (at0 .c16 [0x2A, 0x00]) .c2 { Channel.reset with cmp := 0x55 })

/-- An ABORT_UNLESS whose probe is not answered yet. -/
def probed : State := after (at0 .m4 [0x03, 0, 0, 0, 0, 0x01, 0x01])

/-- A READ that the host has failed: `SendEnd` is in progress and the record is still there (42_read R183). -/
def failing : State := after (answering reading .completed 8)

/-- Between commands, with these inputs and this state of the core. -/
def idleIn (st : ExecState) (c : Command) : State := { commanding State.reset c with st := st }

/-! ### They meet the invariant -/

theorem witness_inv_at0 : (at0 .c16 [0x01, 0xAB]).Inv where
  buffer := by unfold State.bufferOk; decide
  offsets := by unfold State.offsetsOk; decide
  lengths := fun c => by cases c <;> decide
  error := by unfold State.errorOk; decide
  phase := rfl
  record := rfl

theorem witness_inv_at0_m4 : (at0 .m4 [0x03, 0, 0, 0, 0, 0x01, 0x01]).Inv where
  buffer := by unfold State.bufferOk; decide
  offsets := by unfold State.offsetsOk; decide
  lengths := fun c => by cases c <;> decide
  error := by unfold State.errorOk; decide
  phase := rfl
  record := rfl

theorem witness_inv_reading : reading.Inv where
  buffer := by unfold State.bufferOk; decide
  offsets := by unfold State.offsetsOk; decide
  lengths := fun c => by cases c <;> decide
  error := by unfold State.errorOk; decide
  phase := rfl
  record := ⟨.inl rfl, by decide, rfl, rfl, (by decide : 0 < 64)⟩

theorem witness_inv_writing : writing.Inv where
  buffer := by unfold State.bufferOk; decide
  offsets := by unfold State.offsetsOk; decide
  lengths := fun c => by cases c <;> decide
  error := by unfold State.errorOk; decide
  phase := rfl
  record := ⟨.inl rfl, by decide, rfl, rfl, rfl, (by decide : 0 < 64)⟩

theorem witness_inv_waiting : waiting.Inv where
  buffer := by unfold State.bufferOk; decide
  offsets := by unfold State.offsetsOk; decide
  lengths := fun c => by cases c <;> decide
  error := by unfold State.errorOk; decide
  phase := rfl
  record := ⟨.inl rfl, by decide, rfl, by decide, (by decide : 0 < 64)⟩

theorem witness_inv_probed : probed.Inv where
  buffer := by unfold State.bufferOk; decide
  offsets := by unfold State.offsetsOk; decide
  lengths := fun c => by cases c <;> decide
  error := by unfold State.errorOk; decide
  phase := ⟨rfl, rfl⟩
  record := rfl

theorem witness_inv_failing : failing.Inv where
  buffer := by unfold State.bufferOk; decide
  offsets := by unfold State.offsetsOk; decide
  lengths := fun c => by cases c <;> decide
  error := by unfold State.errorOk; decide
  phase := rfl
  record := ⟨.inr ⟨rfl, rfl⟩, by decide, rfl, rfl, (by decide : 0 < 64)⟩

/-- The host's inputs are no part of the invariant. -/
theorem inv_of_host {s : State} (h : s.Inv) (inputs : HostInputs) : State.Inv { s with host := inputs } :=
  ⟨h.buffer, h.offsets, h.lengths, h.error, h.phase, h.record⟩

/-! ## Witnesses: encoding and the decoder loop -/

theorem witness_DecodeOfEncodeIsTheInstruction :
    WellFormed .c16 (.seta24 .c2 0xF50010) ∧ WellFormed .m4 (.m4AbortUnless 7 0xFF 0xFFFFFF 0xFF 0xFF) := by decide

theorem witness_DecodeTakesExactlyOneInstruction :
    decode .c16 [0x30, 0xFF] = .instr .endProc [0xFF] ∧
    decode .m4 [0x1D, 1, 2, 3, 4, 0, 9] = .instr (.m4Write 1 0x040302 0) [9] := by decide

theorem witness_StepRunsTheDecodedInstruction :
    (at0 .c16 [0x01, 0xAB]).phase = .decoding ∧
    decode (at0 .c16 [0x01, 0xAB]).variant (at0 .c16 [0x01, 0xAB]).window = .instr (.seta8 .c0 0xAB) [] := by decide

theorem witness_inv_empty : (at0 .c16 []).Inv where
  buffer := by unfold State.bufferOk; decide
  offsets := by unfold State.offsetsOk; decide
  lengths := fun c => by cases c <;> decide
  error := by unfold State.errorOk; decide
  phase := rfl
  record := rfl

/-- The empty procedure (95_test_vectors S1). -/
theorem witness_BufferExhaustionEndsTheRun :
    (at0 .c16 []).phase = .decoding ∧ (at0 .c16 []).progLen.toNat ≤ (at0 .c16 []).off.toNat ∧ (at0 .c16 []).Inv :=
  ⟨by decide, by decide, witness_inv_empty⟩

/-- The lowest unknown byte of each variant, as the last byte of the buffer. -/
theorem witness_UnknownByteIsLatched :
    ((at0 .c16 [0x40]).phase = .decoding ∧ (at0 .c16 [0x40]).byteAt (at0 .c16 [0x40]).off.toNat = some 0x40 ∧
      ((at0 .c16 [0x40]).variant = .c16 ∧ 64 ≤ (0x40 : Byte).toNat)) ∧
    ((at0 .m4 [0x20]).phase = .decoding ∧ (at0 .m4 [0x20]).byteAt (at0 .m4 [0x20]).off.toNat = some 0x20 ∧
      ((at0 .m4 [0x20]).variant = .m4 ∧ 32 ≤ (0x20 : Byte).toNat)) := by decide

/-- One operand byte short, and with no operand byte at all. -/
theorem witness_TruncatedOperandsAreLatched :
    ((at0 .c16 [0x03, 0x10, 0x00]).phase = .decoding ∧ WellFormed .c16 (.seta24 .c0 0) ∧
      (0x03 : Byte) &&& opcodeMask .c16 = opcodeMatch (.seta24 .c0 0) ∧
      (at0 .c16 [0x03, 0x10, 0x00]).Holds [0x03, 0x10, 0x00] ∧
      ([0x03, 0x10, 0x00] : List Byte).length < instrSize (.seta24 .c0 0) ∧
      (at0 .c16 [0x03, 0x10, 0x00]).progLen.toNat = 0 + 3) ∧
    ((at0 .m4 [0x1C]).phase = .decoding ∧ WellFormed .m4 (.m4Read 0 0 0) ∧
      (0x1C : Byte) &&& opcodeMask .m4 = opcodeMatch (.m4Read 0 0 0) ∧ (at0 .m4 [0x1C]).Holds [0x1C] ∧
      ([0x1C] : List Byte).length < instrSize (.m4Read 0 0 0) ∧ (at0 .m4 [0x1C]).progLen.toNat = 0 + 1) := by
  unfold State.Holds
  decide

theorem witness_DecoderLoopEnds :
    (at0 .c16 [0x01, 0xAB]).Inv ∧ (at0 .c16 [0x01, 0xAB]).phase = .decoding := ⟨witness_inv_at0, rfl⟩

theorem witness_EveryTurnAdvancesTheCursor :
    (at0 .c16 [0x01, 0xAB]).Inv ∧ (at0 .c16 [0x01, 0xAB]).phase = .decoding ∧
    step (at0 .c16 [0x01, 0xAB]) = .next (after (at0 .c16 [0x01, 0xAB])) := ⟨witness_inv_at0, rfl, rfl⟩

/-- A WRITE that completes moves `off`. -/
theorem witness_CursorMovesOnlyAtCompletionAndStart :
    (answering writing .completed 0).Inv ∧ (answering writing .completed 0).phase ≠ .decoding ∧
    step (answering writing .completed 0) = .next (after (answering writing .completed 0)) ∧
    (answering writing .completed 0).off = 1 ∧ (after (answering writing .completed 0)).off = 3 :=
  ⟨inv_of_host witness_inv_writing _, by decide, rfl, by decide, by decide⟩

/-! ## Witnesses: END and the configuration opcodes -/

theorem witness_EndEndsTheRun :
    (at0 .c16 [0x30]).AtDecoder .c16 ∧ (at0 .c16 [0x30]).Holds [mkinst 0 .c3] := by
  unfold State.AtDecoder State.Holds
  decide

/-- For each SET the whole instruction, and the instruction one byte short. -/
theorem witness_SetAddressFromBytes :
    ((at0 .c16 [0x11, 0x7F]).AtDecoder .c16 ∧ (at0 .c16 [0x11, 0x7F]).Holds [mkinst 1 .c1, 0x7F]) ∧
    ((at0 .c16 [0x11]).AtDecoder .c16 ∧ (at0 .c16 [0x11]).Holds [mkinst 1 .c1] ∧ (at0 .c16 [0x11]).progLen.toNat < 0 + 2) ∧
    ((at0 .c16 [0x02, 0x34, 0x12]).AtDecoder .c16 ∧ (at0 .c16 [0x02, 0x34, 0x12]).Holds [mkinst 2 .c0, 0x34, 0x12]) ∧
    ((at0 .c16 [0x02, 0x34]).AtDecoder .c16 ∧ (at0 .c16 [0x02, 0x34]).Holds [mkinst 2 .c0] ∧
      (at0 .c16 [0x02, 0x34]).progLen.toNat < 0 + 3) ∧
    ((at0 .c16 [0x23, 0x10, 0x00, 0xF5]).AtDecoder .c16 ∧
      (at0 .c16 [0x23, 0x10, 0x00, 0xF5]).Holds [mkinst 3 .c2, 0x10, 0x00, 0xF5]) ∧
    ((at0 .c16 [0x23, 0x10, 0x00]).AtDecoder .c16 ∧ (at0 .c16 [0x23, 0x10, 0x00]).Holds [mkinst 3 .c2] ∧
      (at0 .c16 [0x23, 0x10, 0x00]).progLen.toNat < 0 + 4) := by
  unfold State.AtDecoder State.Holds
  decide

theorem witness_SetDescriptorAndLengthFromBytes :
    ((at0 .c16 [0x24, 0xC5]).AtDecoder .c16 ∧ (at0 .c16 [0x24, 0xC5]).Holds [mkinst 4 .c2, 0xC5]) ∧
    ((at0 .c16 [0x24]).AtDecoder .c16 ∧ (at0 .c16 [0x24]).Holds [mkinst 4 .c2] ∧ (at0 .c16 [0x24]).progLen.toNat < 0 + 2) ∧
    ((at0 .c16 [0x05, 0x00, 0x00]).AtDecoder .c16 ∧ (at0 .c16 [0x05, 0x00, 0x00]).Holds [mkinst 5 .c0, 0x00, 0x00]) ∧
    ((at0 .c16 [0x05, 0x00]).AtDecoder .c16 ∧ (at0 .c16 [0x05, 0x00]).Holds [mkinst 5 .c0] ∧
      (at0 .c16 [0x05, 0x00]).progLen.toNat < 0 + 3) := by
  unfold State.AtDecoder State.Holds
  decide

theorem witness_SetComparisonAndTimeoutFromBytes :
    ((at0 .c16 [0x26, 0x55, 0x0F]).AtDecoder .c16 ∧ (at0 .c16 [0x26, 0x55, 0x0F]).Holds [mkinst 6 .c2, 0x55, 0x0F]) ∧
    ((at0 .c16 [0x26, 0x55]).AtDecoder .c16 ∧ (at0 .c16 [0x26, 0x55]).Holds [mkinst 6 .c2] ∧
      (at0 .c16 [0x26, 0x55]).progLen.toNat < 0 + 3) ∧
    ((at0 .c16 [0x07, 0xE8, 0x03, 0x00, 0x00]).AtDecoder .c16 ∧
      (at0 .c16 [0x07, 0xE8, 0x03, 0x00, 0x00]).Holds [mkinst 7 .c0, 0xE8, 0x03, 0x00, 0x00]) ∧
    ((at0 .c16 [0x07, 0xE8, 0x03, 0x00]).AtDecoder .c16 ∧ (at0 .c16 [0x07, 0xE8, 0x03, 0x00]).Holds [mkinst 7 .c0] ∧
      (at0 .c16 [0x07, 0xE8, 0x03, 0x00]).progLen.toNat < 0 + 5) := by
  unfold State.AtDecoder State.Holds
  decide

/-! ## Witnesses: operations -/

/-- The payload ends exactly at `L`; and one byte is missing. -/
theorem witness_WriteEntersTheOperationOrFails :
    (let s := withChan0 { at0 .c16 [0x09, 0xAA, 0x55] with off := 1 } 0 0 2
     s.off.toNat + channelLength (s.chan .c0) = s.progLen.toNat) ∧
    (let s := withChan0 { at0 .c16 [0x09, 0xAA, 0x55] with off := 1 } 0 0 3
     s.progLen.toNat + 1 = s.off.toNat + channelLength (s.chan .c0)) := by
  unfold channelLength
  decide

/-- A length byte of 0 needs 256 payload bytes: just there, and one missing. -/
theorem witness_MinimalTransfersEnterTheOperation :
    (let s : State := { at0 .m4 [] with off := 6, progLen := 262 }
     s.off.toNat + (if (0 : Byte).toNat = 0 then 256 else (0 : Byte).toNat) = s.progLen.toNat) ∧
    (let s : State := { at0 .m4 [] with off := 6, progLen := 261 }
     s.progLen.toNat + 1 = s.off.toNat + (if (0 : Byte).toNat = 0 then 256 else (0 : Byte).toNat)) := by decide

/-- An answer with an error, one with COMPLETED, and one with CONTINUE, to each kind of operation. -/
theorem witness_HostOpAnswerResumesTheOperation :
    (reading.phase = .inHostOp ∧ reading.op.serves reading.st) ∧ (writing.phase = .inHostOp ∧ writing.op.serves writing.st) ∧
    (waiting.phase = .inHostOp ∧ waiting.op.serves waiting.st) ∧
    (answering reading .completed 8).host.opAnswers = [{ calls := [], opstate := .completed, err := 8 }] ∧
    (answering writing .completed 0).host.opAnswers = [{ calls := [], opstate := .completed, err := 0 }] ∧
    (answering waiting .cont 0).host.opAnswers = [{ calls := [], opstate := .cont, err := 0 }] ∧ (8 : Byte) ≠ 0 := by
  decide

/-- The record of `reading`, which has UPD 1: the next `exec`, an answer COMPLETED and an answer CONTINUE. -/
theorem witness_ReadProgressAndCompletion :
    ∃ rd, reading.st = .read ∧ reading.op = .read rd ∧ rd.upd = true ∧ reading.phase = .inHostOp ∧
      (answering reading .completed 0).op = .read rd ∧
      (answering reading .completed 0).host.opAnswers = [{ calls := [], opstate := .completed, err := 0 }] ∧
      (answering reading .cont 0).op = .read rd ∧
      (answering reading .cont 0).host.opAnswers = [{ calls := [], opstate := .cont, err := 0 }] ∧
      { commanding reading .exec with phase := .idle }.host.commands = [.exec] := ⟨_, rfl, rfl, by decide⟩

/-- A READ with UPD 0 (95_test_vectors 2.3, `tv = 0x80`), completed, and left at INIT. -/
theorem witness_ReadProgressAndCompletion_no_update :
    let s := after (withChan0 (at0 .c16 [0x08]) 0x001000 0x80 16)
    ∃ rd, s.st = .read ∧ s.op = .read rd ∧ rd.upd = false ∧ s.phase = .inHostOp ∧
      (answering s .completed 0).op = .read rd ∧
      (answering s .completed 0).host.opAnswers = [{ calls := [], opstate := .completed, err := 0 }] ∧
      (answering s .init 0).op = .read rd ∧
      (answering s .init 0).host.opAnswers = [{ calls := [], opstate := .init, err := 0 }] := ⟨_, rfl, rfl, by decide⟩

/-- The next `exec`, and the three kinds of answer. -/
theorem witness_WaitProgressAndCompletion :
    ∃ wa, waiting.st = .wait ∧ waiting.op = .wait wa ∧ waiting.phase = .inHostOp ∧
      (answering waiting .completed 0).host.opAnswers = [{ calls := [], opstate := .completed, err := 0 }] ∧
      (answering waiting .cont 0).host.opAnswers = [{ calls := [], opstate := .cont, err := 0 }] ∧
      (answering waiting .cont 4).host.opAnswers = [{ calls := [], opstate := .cont, err := 4 }] ∧
      { commanding waiting .exec with phase := .idle }.host.commands = [.exec] := ⟨_, rfl, rfl, by decide⟩

theorem witness_WriteCompletionSkipsThePayload :
    ∃ wr, (answering writing .completed 0).Inv ∧ (answering writing .completed 0).phase = .inHostOp ∧
      (answering writing .completed 0).op = .write wr ∧
      (answering writing .completed 0).host.opAnswers = [{ calls := [], opstate := .completed, err := 0 }] :=
  ⟨_, inv_of_host witness_inv_writing _, rfl, rfl, rfl⟩

theorem witness_TransferCompletedAtOnceAdvancesTheAddress :
    let s := answering (withChan0 { at0 .c16 [0x09, 0xAA, 0x55] with off := 1 } 0xFFFFFF 0x40 2) .completed 0
    s.host.opAnswers = [{ calls := [], opstate := .completed, err := 0 }] ∧
      s.off.toNat + channelLength (s.chan .c0) ≤ s.progLen.toNat := by
  unfold channelLength
  decide

/-- Payload bytes 0 and 1 exist, byte 2 does not. -/
theorem witness_PayloadLiesInsideTheBuffer :
    ∃ wr, writing.Inv ∧ writing.op = .write wr ∧ 1 < wr.length.toNat ∧ wr.length.toNat ≤ 2 :=
  ⟨_, witness_inv_writing, rfl, by decide⟩

/-- The probe's error, an abort and no abort. -/
theorem witness_ProbeAnswerDecidesTheAbort :
    ∃ pr, probed.phase = .inProbe pr ∧ pr.pol = .abortUnless ∧
      (probing probed 8 0).host.probeAnswers = [{ calls := [], err := 8, byte := 0 }] ∧ (8 : Byte) ≠ 0 ∧
      (probing probed 0 2).host.probeAnswers = [{ calls := [], err := 0, byte := 2 }] ∧
      cmpBytes pr.q (2 &&& pr.mask) pr.expected = false ∧ cmpBytes pr.q (3 &&& pr.mask) pr.expected = true :=
  ⟨_, rfl, by decide⟩

theorem witness_AbortUnlessGoesOnOrAborts :
    (probing (at0 .m4 []) 0 3).host.probeAnswers = [{ calls := [], err := 0, byte := 3 }] ∧
    cmpBytes 0 (3 &&& 1) 1 = true ∧ cmpBytes 0 (2 &&& 1) 1 = false ∧
    (probing (at0 .m4 []) 8 3).host.probeAnswers = [{ calls := [], err := 8, byte := 3 }] := by decide

/-- `SendEnd` of a failed run, and of one that ended. -/
theorem witness_SendEndReturnGivesTheLatchedResult :
    (let s : State := { failing with host := { failing.host with endReturns := [[.getState]] } }
     s.phase = .inSendEnd ∧ s.host.endReturns = [[.getState]] ∧ s.st = .errored) ∧
    (let t := after (at0 .c16 [0x00])
     let s : State := { t with host := { t.host with endReturns := [[]] } }
     s.phase = .inSendEnd ∧ s.host.endReturns = [[]] ∧ s.st = .ended) := by decide

/-- The largest operator with a negation, and the two without. -/
theorem witness_AbortPolaritiesAgree : (5 : CmpOp).toNat ≤ 5 ∧ 6 ≤ (6 : CmpOp).toNat ∧ 6 ≤ (7 : CmpOp).toNat := by decide

/-! ## Witnesses: commands -/

theorem witness_ExecWithoutARunOnlyReturns :
    (Issues (idleIn .errored .exec) .exec [] ∧ (idleIn .errored .exec).st = .errored) ∧
    (Issues (idleIn .ended .exec) .exec [] ∧ (idleIn .ended .exec).st = .ended) ∧
    (Issues (idleIn .init .exec) .exec [] ∧ (idleIn .init .exec).st = .init) := by
  unfold Issues
  decide

theorem witness_ExecStartsARun :
    (Issues (idleIn .loaded .exec) .exec [] ∧ (idleIn .loaded .exec).st = .loaded) ∧
    (Issues (idleIn .reset .exec) .exec [] ∧ (idleIn .reset .exec).st = .reset) := by
  unfold Issues
  decide

theorem witness_ExecGoesOnWithARun :
    (Issues (idleIn .executeNext .exec) .exec [] ∧ (idleIn .executeNext .exec).st = .executeNext) ∧
    (let s : State := { commanding reading .exec with phase := .idle }
     Issues s .exec [] ∧ s.st.inOperation ∧ s.op.serves s.st) := by
  unfold Issues
  decide

/-- Rejected in INIT and in flight; done in ERRORED and in LOADED. -/
theorem witness_ExecResetReturnsToReset :
    (Issues (idleIn .init .execReset) .execReset [] ∧ (idleIn .init .execReset).st = .init) ∧
    (Issues (idleIn .wait .execReset) .execReset [] ∧ (idleIn .wait .execReset).st.inFlight) ∧
    (Issues (idleIn .errored .execReset) .execReset [] ∧
      ¬((idleIn .errored .execReset).st = .init ∨ (idleIn .errored .execReset).st.inFlight)) ∧
    (Issues (idleIn .loaded .execReset) .execReset [] ∧
      ¬((idleIn .loaded .execReset).st = .init ∨ (idleIn .loaded .execReset).st.inFlight)) := by
  unfold Issues
  decide

theorem witness_LoadRecordsTheBuffer :
    (Issues (idleIn .loaded (.load none 0)) (.load none 0) [] ∧ (idleIn .loaded (.load none 0)).st ≠ .init) ∧
    (Issues (idleIn .init (.load none 0)) (.load none 0) [] ∧ (idleIn .init (.load none 0)).st = .init) ∧
    (Issues (idleIn .init (.load (some [(0, 0x30)]) 1)) (.load (some [(0, 0x30)]) 1) [] ∧
      (idleIn .init (.load (some [(0, 0x30)]) 1)).st = .init) := by
  unfold Issues
  decide

/-- `init` in flight; and a step after which the state is INIT. -/
theorem witness_InitResetsEverything :
    Issues (idleIn .read .init) .init [] ∧
    step (idleIn .read .init) = .next (after (idleIn .read .init)) ∧ (after (idleIn .read .init)).st = .init :=
  ⟨⟨rfl, rfl⟩, rfl, rfl⟩

theorem witness_HardwareResetIsInit : Issues (idleIn .wait .hardwareReset) .hardwareReset [] := by
  unfold Issues
  decide

theorem witness_PortCallsReadAndWriteTheSlot :
    Issues (idleIn .read (.port .getState)) (.port .getState) [] ∧
    Issues (idleIn .ended (.port .getUserdata)) (.port .getUserdata) [] ∧
    Issues (idleIn .init (.port (.setUserdata 0x1234))) (.port (.setUserdata 0x1234)) [] := by
  unfold Issues
  decide

/-- Calls from inside each of the three callbacks. -/
theorem witness_PortCallsReadAndWriteTheSlot_inside :
    (let s : State := { reading with host := { reading.host with
        opAnswers := [{ calls := [.getState, .setUserdata 7], opstate := .cont, err := 0 }] } }
     step s = .next (after s) ∧ s.phase = .inHostOp ∧
      s.host.opAnswers.head?.map OpAnswer.calls = some [.getState, .setUserdata 7]) ∧
    (let s : State := { probed with host := { probed.host with
        probeAnswers := [{ calls := [.getUserdata], err := 0, byte := 0 }] } }
     step s = .next (after s) ∧ (∃ pr, s.phase = .inProbe pr) ∧
      s.host.probeAnswers.head?.map ProbeAnswer.calls = some [.getUserdata]) ∧
    (let s : State := { failing with host := { failing.host with endReturns := [[.getState]] } }
     step s = .next (after s) ∧ s.phase = .inSendEnd ∧ s.host.endReturns.head? = some [.getState]) :=
  ⟨⟨rfl, by decide⟩, ⟨rfl, ⟨_, rfl⟩, by decide⟩, ⟨rfl, by decide⟩⟩

/-! ## Witnesses: the whole machine -/

/-- A step that ends a run, one that goes on, and a state change in each phase that has one. -/
theorem witness_EveryStep :
    ((at0 .c16 [0x01, 0xAB]).Inv ∧ step (at0 .c16 [0x01, 0xAB]) = .next (after (at0 .c16 [0x01, 0xAB]))) ∧
    ((answering reading .completed 8).Inv ∧
      step (answering reading .completed 8) = .next (after (answering reading .completed 8)) ∧
      (after (answering reading .completed 8)).st ≠ (answering reading .completed 8).st) ∧
    ((answering reading .completed 0).Inv ∧
      step (answering reading .completed 0) = .next (after (answering reading .completed 0)) ∧
      (after (answering reading .completed 0)).st ≠ (answering reading .completed 0).st) ∧
    ((probing probed 8 0).Inv ∧ step (probing probed 8 0) = .next (after (probing probed 8 0)) ∧
      (after (probing probed 8 0)).st ≠ (probing probed 8 0).st) :=
  ⟨⟨witness_inv_at0, rfl⟩, ⟨inv_of_host witness_inv_reading _, rfl, by decide⟩,
    ⟨inv_of_host witness_inv_reading _, rfl, by decide⟩, ⟨inv_of_host witness_inv_probed _, rfl, by decide⟩⟩

theorem witness_inv_write_without_payload : (at0 .c16 [0x09]).Inv where
  buffer := by unfold State.bufferOk; decide
  offsets := by unfold State.offsetsOk; decide
  lengths := fun c => by cases c <;> decide
  error := by unfold State.errorOk; decide
  phase := rfl
  record := rfl

/-- An error in the decoder (a WRITE without its payload), and one in an answer of the host. -/
theorem witness_ErrorsArePrecise :
    ((at0 .c16 [0x09]).Inv ∧ step (at0 .c16 [0x09]) = .next (after (at0 .c16 [0x09])) ∧
      (at0 .c16 [0x09]).phase = .decoding ∧ (at0 .c16 [0x09]).st ≠ .errored ∧
      (after (at0 .c16 [0x09])).st = .errored) ∧
    ((answering reading .cont 8).Inv ∧ step (answering reading .cont 8) = .next (after (answering reading .cont 8)) ∧
      (answering reading .cont 8).phase ≠ .decoding ∧ (answering reading .cont 8).st ≠ .errored ∧
      (after (answering reading .cont 8)).st = .errored) :=
  ⟨⟨witness_inv_write_without_payload, rfl, by decide⟩, ⟨inv_of_host witness_inv_reading _, rfl, by decide⟩⟩

theorem witness_InstructionsTouchOneChannel :
    exec (.seta8 .c1 0x7F) (at0 .c16 []) =
      .next ((at0 .c16 []).setChan .c1 { Channel.reset with a := 0x7F }) := rfl

theorem witness_MinimalVariantLeavesTheRegisters :
    (at0 .m4 [0x03, 0, 0, 0, 0, 0x01, 0x01]).Inv ∧ (at0 .m4 [0x03, 0, 0, 0, 0, 0x01, 0x01]).variant = .m4 ∧
    step (at0 .m4 [0x03, 0, 0, 0, 0, 0x01, 0x01]) = .next probed := ⟨witness_inv_at0_m4, rfl, rfl⟩

theorem witness_UserdataIsTheHosts :
    step (commanding State.reset (.port (.setUserdata 7))) =
        .next (after (commanding State.reset (.port (.setUserdata 7)))) ∧
      (after (commanding State.reset (.port (.setUserdata 7)))).userdata ≠ State.reset.userdata := ⟨rfl, by decide⟩

theorem witness_WaitingCoreHoldsItsState :
    (State.reset.phase = .idle ∧ State.reset.host.commands = []) ∧
    (reading.phase = .inHostOp ∧ reading.host.opAnswers = []) ∧
    ((∃ pr, probed.phase = .inProbe pr) ∧ probed.host.probeAnswers = []) ∧
    (failing.phase = .inSendEnd ∧ failing.host.endReturns = []) :=
  ⟨by decide, by decide, ⟨⟨_, rfl⟩, by decide⟩, by decide⟩

end Sys2Proof.Tests
end

/-! PROOF. The statements about the state (10_state): reset, how the cursor moves, when the buffer record changes, and
which channel an instruction may write. The facts about the decoder, `exec` and the commands stand first. -/

namespace Sys2Proof

/-! ## How many bytes the decoder takes (30_encoding R91, R97) -/

/-- `d` is what the operand bytes `ops` behind an instruction byte give: the buffer is too short, or the instruction has
exactly its format's number of bytes. -/
def Decoded.FitsOperands (d : Decoded) (ops : List Byte) : Prop :=
  d = .truncated ∨ ∃ i rest, d = .instr i rest ∧ ops.length + 1 = instrSize i + rest.length

theorem Decoded.fitsOperands_instr {i : Instr} (h : instrSize i = 1) (ops : List Byte) :
    Decoded.FitsOperands (.instr i ops) ops := .inr ⟨i, ops, rfl, by omega⟩

theorem operands1_fits {k : Byte → Instr} (hk : ∀ b0, instrSize (k b0) = 2) (ops : List Byte) :
    Decoded.FitsOperands (operands1 k ops) ops := by
  match ops with
  | [] => exact .inl rfl
  | _ :: _ => exact .inr ⟨_, _, rfl, by simp only [hk, List.length_cons]; omega⟩

theorem operands2_fits {k : Byte → Byte → Instr} (hk : ∀ b0 b1, instrSize (k b0 b1) = 3) (ops : List Byte) :
    Decoded.FitsOperands (operands2 k ops) ops := by
  match ops with
  | [] | [_] => exact .inl rfl
  | _ :: _ :: _ => exact .inr ⟨_, _, rfl, by simp only [hk, List.length_cons]; omega⟩

theorem operands3_fits {k : Byte → Byte → Byte → Instr} (hk : ∀ b0 b1 b2, instrSize (k b0 b1 b2) = 4)
    (ops : List Byte) : Decoded.FitsOperands (operands3 k ops) ops := by
  match ops with
  | [] | [_] | [_, _] => exact .inl rfl
  | _ :: _ :: _ :: _ => exact .inr ⟨_, _, rfl, by simp only [hk, List.length_cons]; omega⟩

theorem operands4_fits {k : Byte → Byte → Byte → Byte → Instr} (hk : ∀ b0 b1 b2 b3, instrSize (k b0 b1 b2 b3) = 5)
    (ops : List Byte) : Decoded.FitsOperands (operands4 k ops) ops := by
  match ops with
  | [] | [_] | [_, _] | [_, _, _] => exact .inl rfl
  | _ :: _ :: _ :: _ :: _ => exact .inr ⟨_, _, rfl, by simp only [hk, List.length_cons]; omega⟩

theorem operandsTransfer_fits {k : Byte → Addr → Byte → Instr} (hk : ∀ chip a len, instrSize (k chip a len) = 6)
    (ops : List Byte) : Decoded.FitsOperands (operandsTransfer k ops) ops := by
  match ops with
  | [] | [_] | [_, _] | [_, _, _] | [_, _, _, _] => exact .inl rfl
  | _ :: _ :: _ :: _ :: _ :: _ => exact .inr ⟨_, _, rfl, by simp only [hk, List.length_cons]; omega⟩

theorem operandsTest_fits {k : Byte → Addr → Byte → Byte → Instr}
    (hk : ∀ chip a v m, instrSize (k chip a v m) = 7) (ops : List Byte) :
    Decoded.FitsOperands (operandsTest k ops) ops := by
  match ops with
  | [] | [_] | [_, _] | [_, _, _] | [_, _, _, _] | [_, _, _, _, _] => exact .inl rfl
  | _ :: _ :: _ :: _ :: _ :: _ :: _ => exact .inr ⟨_, _, rfl, by simp only [hk, List.length_cons]; omega⟩

theorem decodeOpcodeC16_fits (o : BitVec 4) (c : Chan) (ops : List Byte) :
    Decoded.FitsOperands (decodeOpcodeC16 o c ops) ops := by
  unfold decodeOpcodeC16
  split
  case h_2 | h_5 => exact operands1_fits (fun _ => rfl) ops
  case h_3 | h_6 | h_7 => exact operands2_fits (fun _ _ => rfl) ops
  case h_4 => exact operands3_fits (fun _ _ _ => rfl) ops
  case h_8 => exact operands4_fits (fun _ _ _ _ => rfl) ops
  all_goals exact Decoded.fitsOperands_instr rfl ops

theorem decodeOpcodeM4_fits (o : BitVec 2) (q : CmpOp) (ops : List Byte) :
    Decoded.FitsOperands (decodeOpcodeM4 o q ops) ops := by
  unfold decodeOpcodeM4
  split
  case h_1 | h_2 => exact operandsTransfer_fits (fun _ _ _ => rfl) ops
  case h_3 | h_4 => exact operandsTest_fits (fun _ _ _ _ => rfl) ops

/-- What the decoder makes of an instruction byte and the bytes behind it. -/
theorem decode_cons_cases (v : Variant) (ib : Byte) (ops : List Byte) :
    decode v (ib :: ops) = .unknownOpcode ∨ Decoded.FitsOperands (decode v (ib :: ops)) ops := by
  cases v
  case c16 =>
    simp only [decode, decodeByteC16]
    split
    · exact .inr (decodeOpcodeC16_fits _ _ ops)
    · exact .inl rfl
  case m4 =>
    simp only [decode, decodeByteM4]
    split
    · exact .inr (decodeOpcodeM4_fits _ _ ops)
    · exact .inl rfl

/-- The decoder finds no byte only where there is none (40_lifecycle R130). -/
theorem decode_eq_noByte_iff (v : Variant) (bs : List Byte) : decode v bs = .noByte ↔ bs = [] := by
  cases bs with
  | nil => simp
  | cons ib ops =>
    rcases decode_cons_cases v ib ops with h | h | ⟨i, rest, h, -⟩ <;> simp [h]

/-- An instruction is taken from as many bytes as its format has (30_encoding R91). -/
theorem length_of_decode_eq_instr {v : Variant} {bs rest : List Byte} {i : Instr} (h : decode v bs = .instr i rest) :
    bs.length = instrSize i + rest.length := by
  cases bs with
  | nil => cases h
  | cons ib ops =>
    rcases decode_cons_cases v ib ops with hd | hd | ⟨j, rest', hd, hlen⟩ <;> rw [hd] at h <;> cases h
    exact hlen

end Sys2Proof

namespace Sys2Proof.Machine

/-! ## What the decoder finds at `off` -/

/-- The decoder finds no byte exactly at the end of the buffer (40_lifecycle R130). -/
theorem State.decoded_eq_noByte_iff (s : State) : s.decoded = .noByte ↔ s.progLen.toNat ≤ s.off.toNat :=
  (decode_eq_noByte_iff _ _).trans s.window_eq_nil_iff

/-- An instruction that the decoder finds lies inside the buffer. -/
theorem State.instrSize_le_of_decoded {s : State} {i : Instr} {rest : List Byte} (h : s.decoded = .instr i rest) :
    instrSize i ≤ s.progLen.toNat - s.off.toNat := by
  have hlen := length_of_decode_eq_instr h
  rw [State.length_window] at hlen
  omega

/-! ## What an instruction leaves alone (10_state R20, 20_memory R75) -/

/-- An instruction writes no byte of the buffer, nothing of the host's side, and neither `off` nor `p`. -/
theorem exec_frame {i : Instr} {s t : State} (h : exec i s = .next t) :
    SameProgram s t ∧ SameHostSide s t ∧ t.off = s.off ∧ t.p = s.p := by
  rcases exec_cases h with rfl | ⟨c, v, rfl⟩ | ⟨rd, rfl⟩ | ⟨wr, rfl⟩ | ⟨wa, rfl⟩ | ⟨pr, rfl⟩
  case inr.inr.inr.inl =>
    rcases s.enterWrite_cases wr with ⟨-, ht⟩ | ⟨-, ht⟩ <;> rw [ht] <;>
      exact ⟨.of_fields rfl rfl rfl rfl, ⟨rfl, rfl⟩, rfl, rfl⟩
  all_goals exact ⟨.of_fields rfl rfl rfl rfl, ⟨rfl, rfl⟩, rfl, rfl⟩

@[simp] theorem State.enterWrite_regs (s : State) (wr : WriteRec) : (s.enterWrite wr).regs = s.regs := by
  rcases s.enterWrite_cases wr with ⟨-, ht⟩ | ⟨-, ht⟩ <;> rw [ht] <;> rfl

/-- `i` is a SET of C16 whose instruction byte names channel `c` in its bits 5:4 (30_encoding R90, R94). -/
def SetsChannel (i : Instr) (c : Chan) : Prop :=
  ((encode i).headD 0).extractLsb' 4 2 = c.toBits ∧ i.variant = .c16 ∧ 1 ≤ (opcodeMatch i).toNat ∧
    (opcodeMatch i).toNat ≤ 7

/-- An instruction leaves the register file, or it is a SET and replaces the registers of the channel it names. -/
theorem exec_regs_cases {i : Instr} {s t : State} (h : exec i s = .next t) :
    t.regs = s.regs ∨ ∃ c v, t = s.setChan c v ∧ SetsChannel i c := by
  cases i <;> cases h
  case seta8 | seta16 | seta24 | settv | setlen | setcmpmsk | settim =>
    exact .inr ⟨_, _, rfl, (mkinst_fields _ _).2.1, rfl, by simp [opcodeMatch], by simp [opcodeMatch]⟩
  case write | m4Write => exact .inl (State.enterWrite_regs s _)
  all_goals exact .inl rfl

/-! ## One turn of the decoder loop (10_state R32, R33) -/

theorem State.beginInstr_off_toNat {s : State} {n : Nat} (h : s.off.toNat + n ≤ s.progLen.toNat) :
    (s.beginInstr n).off.toNat = s.off.toNat + n := by
  have hl := s.progLen.isLt
  simp only [State.beginInstr_off, BitVec.toNat_add, BitVec.toNat_ofNat]
  omega

/-- A turn ends the run at the end of the buffer, or moves `p` and `off` as taking `n` bytes inside the buffer does. -/
theorem State.turn_cursor_cases {s t : State} (h : s.turn = .next t) :
    (s.progLen.toNat ≤ s.off.toNat ∧ t = s.endRun) ∨
    ∃ n, 1 ≤ n ∧ s.off.toNat + n ≤ s.progLen.toNat ∧ t.off = (s.beginInstr n).off ∧ t.p = s.off := by
  by_cases hend : s.progLen.toNat ≤ s.off.toNat
  · have hd := s.decoded_eq_noByte_iff.mpr hend
    rcases State.turn_cases h with ⟨-, rfl⟩ | ⟨hd', -⟩ | ⟨hd', -⟩ | ⟨i, rest, hd', -⟩
    · exact .inl ⟨hend, rfl⟩
    all_goals rw [hd] at hd'; cases hd'
  · refine .inr ?_
    rcases State.turn_cases h with ⟨hd, -⟩ | ⟨-, rfl⟩ | ⟨-, rfl⟩ | ⟨i, rest, hd, he⟩
    · exact absurd (s.decoded_eq_noByte_iff.mp hd) hend
    · exact ⟨1, le_rfl, by omega, rfl, rfl⟩
    · exact ⟨1, le_rfl, by omega, rfl, rfl⟩
    · obtain ⟨-, -, hoff, hp⟩ := exec_frame he
      have hsize := State.instrSize_le_of_decoded hd
      exact ⟨instrSize i, instrSize_pos i, by omega, hoff, hp⟩

/-! ## Commands and answers -/

/-- Everything `load` can do (40_lifecycle R121). -/
theorem State.loadCommand_cases (s : State) (proc : Option (List Host.Cell)) (lIn : Offset) :
    (∃ code, s.loadCommand proc lIn = s.returnCode code) ∨
    (s.st = .init ∧ ∃ cells, proc = some cells ∧
      s.loadCommand proc lIn = State.returnCode
        { s with procPresent := true, buf := Memory.ofCells lIn.toNat cells, progLen := lIn, st := .loaded }
        ErrCode.success) := by
  unfold State.loadCommand
  split
  case isFalse => exact .inl ⟨_, rfl⟩
  case isTrue hst =>
    cases proc with
    | none => exact .inl ⟨_, rfl⟩
    | some cells => exact .inr ⟨hst, cells, rfl, rfl⟩

/-- `exec_reset` returns a code and writes nothing but `s` (40_lifecycle R122). -/
theorem State.execReset_cases (s : State) :
    (∃ code, s.execReset = s.returnCode code) ∨
    s.execReset = State.returnCode { s with st := .reset } ErrCode.success := by
  unfold State.execReset
  split
  case h_1 | h_2 | h_3 | h_4 => exact .inr rfl
  all_goals exact .inl ⟨_, rfl⟩

/-- While the active record serves `s`, `next_off` lies at `off` or after it (10_state R34, 43_write R190). -/
theorem State.Inv.off_le_nextOff {s : State} (h : s.Inv) (hs : s.op.serves s.st) :
    s.off.toNat ≤ s.nextOff.toNat := by
  have hr := h.record
  unfold State.recordOk at hr
  split at hr
  case h_1 hop => simp [hop, Op.serves] at hs
  case h_2 | h_4 => obtain ⟨-, -, hn, -⟩ := hr; rw [hn]
  case h_3 => obtain ⟨-, -, -, hn, -⟩ := hr; omega

/-- The answer to `HostOp` leaves `off`, or completes the operation and sets it to `next_off` (40_lifecycle R140). -/
theorem State.answerOp_off {s t : State} {ans : OpAnswer} (h : s.answerOp ans = .next t) :
    t.off = s.off ∨ (s.op.serves s.st ∧ t.st = .executeNext ∧ t.off = s.nextOff) := by
  obtain ⟨hs, ⟨-, rfl⟩ | ⟨-, -, rfl⟩ | ⟨-, -, rfl⟩⟩ := State.answerOp_cases h
  · exact .inl (by simp)
  · exact .inr ⟨hs, by simp, by simp⟩
  · exact .inl (by simp)

@[simp] theorem State.answerProbe_off (s : State) (pr : ProbeRec) (ans : ProbeAnswer) :
    (s.answerProbe pr ans).off = s.off := by
  rcases s.answerProbe_cases pr ans with ⟨-, h⟩ | ⟨-, -, h⟩ | ⟨-, -, h⟩ <;> simp [h]

@[simp] theorem State.endReturned_off (s : State) (calls : List PortCall) : (s.endReturned calls).off = s.off := by
  simp [State.endReturned]

/-- A command leaves `off`, or sets it to 0 at the start of a run, at `init` or at the hardware reset. -/
theorem State.runCommand_off {s t : State} {c : Command} (h : s.runCommand c = .next t) :
    t.off = s.off ∨
    (t.off = 0 ∧ (c = .exec ∧ (s.st = .loaded ∨ s.st = .reset) ∨ c = .init ∨ c = .hardwareReset)) := by
  cases c
  case hardwareReset => cases h; exact .inr ⟨rfl, .inr (.inr rfl)⟩
  case init => cases h; exact .inr ⟨rfl, .inr (.inl rfl)⟩
  case load proc lIn =>
    cases h
    rcases s.loadCommand_cases proc lIn with ⟨_, ht⟩ | ⟨-, _, -, ht⟩ <;> exact .inl (by rw [ht]; rfl)
  case execReset =>
    cases h
    rcases s.execReset_cases with ⟨_, ht⟩ | ht <;> exact .inl (by rw [ht]; rfl)
  case exec =>
    rcases State.startExec_cases h with ⟨-, rfl⟩ | ⟨-, -, rfl⟩ | ⟨-, rfl⟩ | ⟨hst, rfl⟩ | ⟨-, rfl⟩
    case inr.inr.inr.inl => exact .inr ⟨rfl, .inl ⟨rfl, hst⟩⟩
    all_goals exact .inl rfl
  case port call => cases h; exact .inl (by simp)

/-! ## The program (10_state R38, 20_memory R75) -/

/-- The start of `exec` leaves the program. -/
theorem State.startExec_sameProgram {s t : State} (h : s.startExec = .next t) : SameProgram s t := by
  rcases State.startExec_cases h with ⟨-, rfl⟩ | ⟨-, -, rfl⟩ | ⟨-, rfl⟩ | ⟨-, rfl⟩ | ⟨-, rfl⟩ <;>
    exact .of_fields rfl rfl rfl rfl

/-- A turn of the decoder loop leaves the program. -/
theorem State.turn_sameProgram {s t : State} (h : s.turn = .next t) : SameProgram s t := by
  rcases State.turn_cases h with ⟨-, rfl⟩ | ⟨-, rfl⟩ | ⟨-, rfl⟩ | ⟨i, rest, -, he⟩
  case inr.inr.inr =>
    have begun : SameProgram s (s.beginInstr (instrSize i)) := .of_fields rfl rfl rfl rfl
    exact begun.trans (exec_frame he).1
  all_goals exact .of_fields rfl rfl rfl rfl

theorem State.answerOp_sameProgram {s t : State} {ans : OpAnswer} (h : s.answerOp ans = .next t) :
    SameProgram s t := by
  obtain ⟨-, ⟨-, rfl⟩ | ⟨-, -, rfl⟩ | ⟨-, -, rfl⟩⟩ := State.answerOp_cases h <;> apply SameProgram.of_fields <;> simp

theorem State.answerProbe_sameProgram (s : State) (pr : ProbeRec) (ans : ProbeAnswer) :
    SameProgram s (s.answerProbe pr ans) := by
  rcases s.answerProbe_cases pr ans with ⟨-, h⟩ | ⟨-, -, h⟩ | ⟨-, -, h⟩ <;> apply SameProgram.of_fields <;> simp [h]

theorem State.endReturned_sameProgram (s : State) (calls : List PortCall) : SameProgram s (s.endReturned calls) := by
  apply SameProgram.of_fields <;> simp [State.endReturned]

/-- A step leaves the program, or it is a command. -/
theorem step_sameProgram_or_command {s t : State} (h : step s = .next t) :
    SameProgram s t ∨ ∃ c cs, s.host.commands = c :: cs ∧ s.dropCommand.runCommand c = .next t := by
  rcases step_cases h with ⟨-, -, rfl⟩ | ⟨c, cs, -, hc, hrun⟩ | ⟨-, hturn⟩ | ⟨-, -, rfl⟩ | ⟨_, _, -, -, hans⟩ |
    ⟨_, -, -, rfl⟩ | ⟨pr, ans, _, -, -, rfl⟩ | ⟨-, -, rfl⟩ | ⟨calls, _, -, -, rfl⟩
  · exact .inl (.refl _)
  · exact .inr ⟨c, cs, hc, hrun⟩
  · exact .inl (State.turn_sameProgram hturn)
  · exact .inl (.refl _)
  · exact .inl (State.answerOp_sameProgram (s := s.dropOpAnswer) hans)
  · exact .inl (.refl _)
  · exact .inl (State.answerProbe_sameProgram s.dropProbeAnswer pr ans)
  · exact .inl (.refl _)
  · exact .inl (State.endReturned_sameProgram s.dropEndReturn calls)

/-- A command leaves the program, or is a `load` in INIT that records the buffer given, or clears the state. -/
theorem State.runCommand_program_cases {s t : State} {c : Command} (h : s.runCommand c = .next t) :
    SameProgram s t ∨
    (t.procPresent = true ∧ s.st = .init ∧ ∃ cells lIn, c = .load (some cells) lIn ∧ t.progLen = lIn ∧
      t.buf = Memory.ofCells lIn.toNat cells) ∨
    (t.procPresent = false ∧ t.progLen = 0 ∧ (c = .init ∨ c = .hardwareReset)) := by
  cases c
  case hardwareReset => cases h; exact .inr (.inr ⟨rfl, rfl, .inr rfl⟩)
  case init => cases h; exact .inr (.inr ⟨rfl, rfl, .inl rfl⟩)
  case load proc lIn =>
    cases h
    rcases s.loadCommand_cases proc lIn with ⟨_, ht⟩ | ⟨hst, cells, rfl, ht⟩ <;> rw [ht]
    · exact .inl (.of_fields rfl rfl rfl rfl)
    · exact .inr (.inl ⟨rfl, hst, cells, lIn, rfl, rfl, rfl⟩)
  case execReset =>
    cases h
    rcases s.execReset_cases with ⟨_, ht⟩ | ht <;> rw [ht] <;> exact .inl (.of_fields rfl rfl rfl rfl)
  case exec => exact .inl (State.startExec_sameProgram h)
  case port call => cases h; exact .inl (.of_fields (by simp) (by simp) (by simp) (by simp))

/-- A buffer of length 0 holds no byte. -/
theorem State.byteAt_eq_none_of_progLen {s : State} (h : s.progLen = 0) (i : Nat) : s.byteAt i = none := by
  simp [State.byteAt, h]

/-- The bytes of a loaded buffer are the bytes given (40_lifecycle R121; log 6). -/
theorem State.byteAt_of_loaded {s : State} {cells : List Host.Cell}
    (hbuf : s.buf = Memory.ofCells s.progLen.toNat cells) (i : Nat) :
    s.byteAt i = if i < s.progLen.toNat then some (Memory.get cells i) else none := by
  unfold State.byteAt
  split
  case isTrue hi => rw [hbuf, Memory.get_ofCells, if_pos hi]
  case isFalse => rfl

/-! ## The statements -/

/-- Settles O15: a turn that is not the end of the buffer takes at least one byte and no byte beyond `L`. -/
theorem everyTurnAdvancesTheCursor : Obligations.EveryTurnAdvancesTheCursor := by
  intro s t hInv hphase hstep
  have hturn : s.turn = .next t := by simpa only [step, State.cycle, hphase] using hstep
  obtain ⟨-, hle, -⟩ := hInv.offsets
  rcases State.turn_cursor_cases hturn with ⟨hend, rfl⟩ | ⟨n, hpos, hfit, hoff, hp⟩
  · exact .inl ⟨BitVec.eq_of_toNat_eq (by omega), rfl, rfl, rfl, rfl⟩
  · have hnew : t.off.toNat = s.off.toNat + n := by rw [hoff, State.beginInstr_off_toNat hfit]
    exact .inr ⟨hp, by omega, by omega⟩

/-- Settles O16, by the kinds of steps; at a completion the invariant's record puts `next_off` at or after `off`. -/
theorem cursorMovesOnlyAtCompletionAndStart : Obligations.CursorMovesOnlyAtCompletionAndStart := by
  intro s t hInv hphase hstep
  rcases step_cases hstep with ⟨-, -, rfl⟩ | ⟨c, _, hidle, hc, hrun⟩ | ⟨hdec, -⟩ | ⟨-, -, rfl⟩ |
    ⟨_, _, hop, -, hans⟩ | ⟨_, -, -, rfl⟩ | ⟨_, _, _, -, -, rfl⟩ | ⟨-, -, rfl⟩ | ⟨_, _, -, -, rfl⟩
  · exact .inl rfl
  · rcases State.runCommand_off hrun with hoff | ⟨hzero, hcause⟩
    · exact .inl hoff
    · exact .inr (.inr ⟨hzero, hidle, by simpa [hc] using hcause⟩)
  · exact absurd hdec hphase
  · exact .inl rfl
  · rcases State.answerOp_off hans with hoff | ⟨hserves, hst, hoff⟩
    · exact .inl hoff
    · exact .inr (.inl ⟨hop, hst, hoff, hInv.off_le_nextOff hserves⟩)
  · exact .inl rfl
  · exact .inl (by simp)
  · exact .inl rfl
  · exact .inl (by simp)

/-- Settles O53: only a command can change the program, and of the commands only `load`, `init` and the hardware
reset do. -/
theorem bufferRecordIsConstantBetweenLoadAndInit : Obligations.BufferRecordIsConstantBetweenLoadAndInit := by
  intro s t hstep
  rcases step_sameProgram_or_command hstep with hsame | ⟨c, cs, hc, hrun⟩
  · exact .inl hsame
  rcases State.runCommand_program_cases hrun with hsame | ⟨hpres, hst, cells, lIn, rfl, hlen, hbuf⟩ |
    ⟨hpres, hlen, hcause⟩
  · exact .inl hsame
  · subst hlen
    exact .inr (.inl ⟨hpres, hst, cells, _, by rw [hc]; rfl, rfl, State.byteAt_of_loaded hbuf⟩)
  · exact .inr (.inr ⟨hpres, hlen, State.byteAt_eq_none_of_progLen hlen, by simpa [hc] using hcause⟩)

/-- Settles O55: the frame of `exec`, and that only a SET writes a channel, the one it names. -/
theorem instructionsTouchOneChannel : Obligations.InstructionsTouchOneChannel := by
  intro i s t h
  obtain ⟨hprog, hhost, hoff, hp⟩ := exec_frame h
  refine ⟨hprog, hhost, hoff, hp, fun d => ?_⟩
  rcases exec_regs_cases h with hregs | ⟨c, v, rfl, hsets⟩
  · exact .inl (SameRegisters.of_regs hregs d)
  · by_cases hd : d = c
    · exact .inr (hd ▸ hsets)
    · exact .inl (State.chan_setChan_of_ne s v hd)

/-- Settles O1: an empty buffer has no byte, and every channel is `Channel.reset`. -/
theorem resetHoldsTheSpecValues : Obligations.ResetHoldsTheSpecValues := by
  refine ⟨rfl, rfl, rfl, rfl, rfl, rfl, rfl, rfl, rfl, State.byteAt_eq_none_of_progLen rfl, fun c => ?_⟩
  have hc : State.reset.chan c = Channel.reset := RegFile.get_reset c
  rw [hc]
  exact ⟨rfl, rfl, rfl, rfl, rfl, rfl⟩

end Sys2Proof.Machine

/-! PROOF. The statement about the program memory (20_memory): the payload of a WRITE in progress. The facts about the
payload window and the write record stand first. -/

namespace Sys2Proof.Machine

/-! ## The payload window -/

/-- The buffer holds a byte exactly at the offsets below `L` (00_scope R11). -/
theorem State.isSome_byteAt_iff (s : State) (i : Nat) : (s.byteAt i).isSome ↔ i < s.progLen.toNat := by
  unfold State.byteAt
  split
  case isTrue hi => simp [hi]
  case isFalse hi => simp [hi]

/-- Inside the window of an active WRITE the payload is the buffer from `data_offset` on (20_memory R68). -/
theorem State.payloadByte_of_lt {s : State} {wr : WriteRec} (hop : s.op = .write wr) {i : Nat}
    (hi : i < wr.length.toNat) : s.payloadByte i = s.byteAt (wr.dataOffset.toNat + i) := by
  simp [State.payloadByte, hop, hi]

/-- From `length` on the window of an active WRITE holds no byte (20_memory R68). -/
theorem State.payloadByte_of_le {s : State} {wr : WriteRec} (hop : s.op = .write wr) {i : Nat}
    (hi : wr.length.toNat ≤ i) : s.payloadByte i = none := by
  simp [State.payloadByte, hop, hi]

/-- The payload of an active WRITE starts at `off` and ends at `next_off` (43_write R190). -/
theorem State.Inv.write_span {s : State} {wr : WriteRec} (h : s.Inv) (hop : s.op = .write wr) :
    wr.dataOffset = s.off ∧ s.nextOff.toNat = s.off.toNat + wr.length.toNat := by
  have hr := h.record
  simp only [State.recordOk, hop] at hr
  obtain ⟨-, -, hstart, hnext, -⟩ := hr
  exact ⟨hstart, hnext⟩

/-- The payload of an active WRITE ends at or before `L` (20_memory R68). -/
theorem State.Inv.write_end_le {s : State} {wr : WriteRec} (h : s.Inv) (hop : s.op = .write wr) :
    wr.dataOffset.toNat + wr.length.toNat ≤ s.progLen.toNat := by
  obtain ⟨hstart, hnext⟩ := h.write_span hop
  obtain ⟨-, -, hle⟩ := h.offsets
  rw [hstart, ← hnext]
  exact hle

/-! ## The obligation -/

/-- Settles O36: the payload is the stretch of the buffer from `data_offset` to `next_off`, which lies below `L`. -/
theorem payloadLiesInsideTheBuffer : Obligations.PayloadLiesInsideTheBuffer := by
  intro s wr hInv hop i
  refine ⟨fun hi => ?_, State.payloadByte_of_le hop⟩
  have hend := hInv.write_end_le hop
  have hin : wr.dataOffset.toNat + i < s.progLen.toNat := by omega
  have hbyte := State.payloadByte_of_lt hop hi
  exact ⟨hin, hbyte, by rw [hbyte]; exact (s.isSome_byteAt_iff _).mpr hin⟩

end Sys2Proof.Machine

/-! PROOF. The statements about the lifecycle (40_lifecycle): the start and the end of a run, the answer to `HostOp`, the
host's calls, and every change of `s`. What a step of each phase does, and which steps change `s` or invoke a callback,
stands first. -/

namespace Sys2Proof.Machine

/-! ## One step in a given phase -/

theorem State.dropCommand_of_commands {s : State} {c : Command} {cs : List Command} (h : s.host.commands = c :: cs) :
    s.dropCommand = { s with host := { s.host with commands := cs } } := by
  simp [State.dropCommand, h]

/-- While the core is idle, a step runs the host's next command. -/
theorem step_of_issues {s : State} {c : Command} {cs : List Command} (h : Issues s c cs) :
    step s = State.runCommand { s with host := { s.host with commands := cs } } c := by
  obtain ⟨hp, hc⟩ := h
  simp only [step, State.cycle, hp, State.idleMove, hc, State.dropCommand_of_commands hc]

/-- At the top of the decoder loop a step is a turn of the loop (40_lifecycle R129). -/
theorem step_of_decoding {s : State} (hp : s.phase = .decoding) : step s = s.turn := by
  simp only [step, State.cycle, hp]

/-- While `HostOp` is out, a step takes the host's answer (40_lifecycle R140). -/
theorem step_of_opAnswer {s : State} {ans : OpAnswer} {more : List OpAnswer} (hp : s.phase = .inHostOp)
    (ha : s.host.opAnswers = ans :: more) : step s = s.dropOpAnswer.answerOp ans := by
  simp only [step, State.cycle, hp, State.opMove, ha]

/-- While a probe is out, a step takes the host's answer (45_abort R221). -/
theorem step_of_probeAnswer {s : State} {pr : ProbeRec} {ans : ProbeAnswer} {more : List ProbeAnswer}
    (hp : s.phase = .inProbe pr) (ha : s.host.probeAnswers = ans :: more) :
    step s = .next (s.dropProbeAnswer.answerProbe pr ans) := by
  simp only [step, State.cycle, hp, State.probeMove, ha]

/-- While `SendEnd` is out, a step takes its return (60_exceptions R259). -/
theorem step_of_endReturn {s : State} {calls : List PortCall} {more : List (List PortCall)}
    (hp : s.phase = .inSendEnd) (ha : s.host.endReturns = calls :: more) :
    step s = .next (s.dropEndReturn.endReturned calls) := by
  simp only [step, State.cycle, hp, State.endMove, ha]

/-! ## Where an operation always has a next state -/

/-- Every instruction answers a next state. -/
theorem exec_next (i : Instr) (s : State) : ∃ t, exec i s = .next t := by
  cases i <;> exact ⟨_, rfl⟩

/-- Every turn of the decoder loop answers a next state. -/
theorem State.turn_next (s : State) : ∃ t, s.turn = .next t := by
  unfold State.turn
  split
  case h_4 i _ _ => exact exec_next i _
  all_goals exact ⟨_, rfl⟩

/-- At the end of the buffer a turn ends the run (40_lifecycle R130). -/
theorem State.turn_of_exhausted {s : State} (h : s.progLen.toNat ≤ s.off.toNat) : s.turn = .next s.endRun := by
  simp only [State.turn, s.decoded_eq_noByte_iff.mpr h]

/-- The answer to `HostOp` has a next state where the record serves `s`; the fault is for the others (log 22). -/
theorem State.answerOp_next {s : State} (h : s.op.serves s.st) (ans : OpAnswer) : ∃ t, s.answerOp ans = .next t := by
  simp only [State.answerOp, State.portCalls_op, State.portCalls_st, h, if_true]
  split
  case isTrue => exact ⟨_, rfl⟩
  case isFalse => split <;> exact ⟨_, rfl⟩

/-! ## The start of `exec` (40_lifecycle R125, R128) -/

theorem ExecState.inOperation_iff (x : ExecState) : x.inOperation ↔ x = .read ∨ x = .write ∨ x = .wait := by
  cases x <;> decide

theorem State.startExec_of_ready {s : State} (h : s.st = .loaded ∨ s.st = .reset) :
    s.startExec = .next { s.zeroPerRun with st := .executeNext, phase := .decoding } := by
  rcases h with h | h <;> simp only [State.startExec, h]

theorem State.startExec_of_executeNext {s : State} (h : s.st = .executeNext) :
    s.startExec = .next { s with phase := .decoding } := by
  simp only [State.startExec, h]

theorem State.startExec_of_inOperation {s : State} (h : s.st.inOperation) (hs : s.op.serves s.st) :
    s.startExec = .next s.invokeHostOp := by
  rcases (ExecState.inOperation_iff _).mp h with h | h | h <;> simp only [State.startExec, h] <;>
    exact if_pos (h ▸ hs)

/-! ## The calls made from inside a callback (40_lifecycle R123, R124; log 26) -/

/-- The step from `s` to `t` makes these calls: `userdata` is what they leave, and their results are driven out before
anything else of the step. -/
def MakesCalls (s : State) (calls : List PortCall) (t : State) : Prop :=
  t.userdata = (s.portCalls calls).userdata ∧ (s.portCalls calls).events <:+ t.events

/-- The calls see and write the same in two states that agree in `userdata`, `s` and the record of outputs. -/
theorem MakesCalls.congr {s s' t : State} {calls : List PortCall} (h : MakesCalls s' calls t)
    (hu : s'.userdata = s.userdata) (he : s'.events = s.events) (hs : s'.st = s.st) : MakesCalls s calls t := by
  obtain ⟨hu', he'⟩ := State.portCalls_congr calls s' s hu he hs
  exact ⟨hu' ▸ h.1, he' ▸ h.2⟩

theorem State.answerOp_makesCalls {s t : State} {ans : OpAnswer} (h : s.answerOp ans = .next t) :
    MakesCalls s ans.calls t := by
  obtain ⟨-, ⟨-, rfl⟩ | ⟨-, -, rfl⟩ | ⟨-, -, rfl⟩⟩ := State.answerOp_cases h <;> simp [MakesCalls]

theorem State.answerProbe_makesCalls (s : State) (pr : ProbeRec) (ans : ProbeAnswer) :
    MakesCalls s ans.calls (s.answerProbe pr ans) := by
  rcases s.answerProbe_cases pr ans with ⟨-, h⟩ | ⟨-, -, h⟩ | ⟨-, -, h⟩ <;> simp [MakesCalls, h]

theorem State.endReturned_makesCalls (s : State) (calls : List PortCall) :
    MakesCalls s calls (s.endReturned calls) := by
  simp [MakesCalls, State.endReturned]

/-- The step that takes an answer or the return of `SendEnd` makes the calls that came with it. -/
theorem step_makesCalls {s t : State} {calls : List PortCall} (h : step s = .next t)
    (hcalls : s.phase = .inHostOp ∧ s.host.opAnswers.head?.map OpAnswer.calls = some calls ∨
      (∃ pr, s.phase = .inProbe pr) ∧ s.host.probeAnswers.head?.map ProbeAnswer.calls = some calls ∨
      s.phase = .inSendEnd ∧ s.host.endReturns.head? = some calls) : MakesCalls s calls t := by
  simp only [Option.map_eq_some_iff, List.head?_eq_some_iff] at hcalls
  rcases hcalls with ⟨hp, ans, ⟨more, ha⟩, rfl⟩ | ⟨⟨pr, hp⟩, ans, ⟨more, ha⟩, rfl⟩ | ⟨hp, more, ha⟩
  · rw [step_of_opAnswer hp ha] at h
    exact (State.answerOp_makesCalls h).congr rfl rfl rfl
  · rw [step_of_probeAnswer hp ha] at h
    cases h
    exact (s.dropProbeAnswer.answerProbe_makesCalls pr ans).congr rfl rfl rfl
  · rw [step_of_endReturn hp ha] at h
    cases h
    exact (s.dropEndReturn.endReturned_makesCalls calls).congr rfl rfl rfl

/-! ## The write-back at completion (40_lifecycle R142; 10_state R24) -/

theorem State.writeBack_regs (s : State) (upd : Bool) (c : Chan) (a : Addr) (l : BitVec 17) :
    (s.writeBack upd c a l).regs =
      if upd then s.regs.set c { s.regs.get c with a := a + l.setWidth 24 } else s.regs := by
  cases upd <;> rfl

/-- The value written back is the sum modulo 2^24. -/
theorem addr_add_length (a : Addr) (l : BitVec 17) : a + l.setWidth 24 = BitVec.ofNat 24 (a.toNat + l.toNat) := by
  apply BitVec.eq_of_toNat_eq
  simp

/-- The registers of `t` are those of `s` with the address of channel `c` written back. -/
def WritesBack (s t : State) (upd : Bool) (c : Chan) (a : Addr) (l : BitVec 17) : Prop :=
  (t.chan c = if upd then { s.chan c with a := BitVec.ofNat 24 (a.toNat + l.toNat) } else s.chan c) ∧
    SameOtherChannels c s t

theorem WritesBack.of_regs {s t : State} {upd : Bool} {c : Chan} {a : Addr} {l : BitVec 17}
    (h : t.regs = (s.writeBack upd c a l).regs) : WritesBack s t upd c a l := by
  have hchan : ∀ d, t.chan d = (s.writeBack upd c a l).chan d := fun d => by simp only [State.chan, h]
  refine ⟨?_, fun d hd => (hchan d).trans (SameOtherChannels.writeBack s upd c a l d hd)⟩
  rw [hchan, ← addr_add_length]
  cases upd <;> simp [State.writeBack]


/-! ## The answer to `HostOp` (40_lifecycle R140 to R143) -/

/-- What every answer to `HostOp` leaves alone. -/
theorem State.answerOp_frame {s t : State} {ans : OpAnswer} (h : s.answerOp ans = .next t) :
    FrameAnswer s t ans.calls ∧ t.host = s.host := by
  have hprog := State.answerOp_sameProgram h
  have huser := (State.answerOp_makesCalls h).1
  obtain ⟨-, ⟨-, rfl⟩ | ⟨-, -, rfl⟩ | ⟨-, -, rfl⟩⟩ := State.answerOp_cases h <;>
    exact ⟨⟨hprog, by simp, by simp, huser⟩, by simp⟩

/-- Of the state before, the latch sees only the record of outputs. -/
theorem Latched.congr {k : Byte} {s s' t : State} (h : Latched k s' t) (he : s'.events = s.events) :
    Latched k s t := by
  obtain ⟨hcode, hst, hev, hend⟩ := h
  exact ⟨hcode, hst, he ▸ hev, hend⟩

/-- An error is latched and nothing is written back (decision D16). -/
theorem State.answerOp_error {s t : State} {ans : OpAnswer} (h : s.answerOp ans = .next t) (he : ans.err ≠ 0) :
    Latched ans.err (s.portCalls ans.calls) t ∧ t.off = s.off ∧ t.op = s.op ∧ SameRegisters s t := by
  obtain ⟨-, ⟨-, rfl⟩ | ⟨he', -⟩ | ⟨he', -⟩⟩ := State.answerOp_cases h
  · exact ⟨.latch _ _, by simp, by simp, .of_regs (by simp)⟩
  · exact absurd he' he
  · exact absurd he' he

/-- What completion writes into the register file, by the kind of the record: the address of a READ or a WRITE, nothing
of a WAIT. -/
def WritesBackRecord (s t : State) : Prop :=
  (∀ rd, s.op = .read rd → WritesBack s t rd.upd rd.ch rd.address rd.length) ∧
  (∀ wr, s.op = .write wr → WritesBack s t wr.upd wr.ch wr.address wr.length) ∧
  (∀ wa, s.op = .wait wa → SameRegisters s t)

/-- The write-back sees only the register file and the record without its `opstate`. -/
theorem WritesBackRecord.of_regs {s t u : State} {o : OpState} (ht : t.regs = u.writeBackOp.regs)
    (hop : u.op = s.op.setOpstate o) (hregs : u.regs = s.regs) : WritesBackRecord s t := by
  refine ⟨fun rd h => .of_regs ?_, fun wr h => .of_regs ?_, fun wa h => .of_regs ?_⟩ <;>
    rw [h] at hop <;> simp [ht, State.writeBackOp, hop, Op.setOpstate, State.writeBack_regs, hregs]

/-- COMPLETED completes the operation (decision D14). -/
theorem State.answerOp_completed {s t : State} {ans : OpAnswer} (h : s.answerOp ans = .next t) (he : ans.err = 0)
    (hc : ans.opstate = .completed) :
    t.st = .executeNext ∧ t.op = .idle ∧ t.off = s.nextOff ∧ t.e = s.e ∧ t.phase = .idle ∧
      t.events = .returned 0 :: (s.portCalls ans.calls).events ∧ WritesBackRecord s t := by
  obtain ⟨-, ⟨he', -⟩ | ⟨-, -, rfl⟩ | ⟨-, hc', -⟩⟩ := State.answerOp_cases h
  · exact absurd he he'
  · refine ⟨by simp, by simp, by simp, by simp, rfl, ?_, .of_regs (o := ans.opstate) (State.completeOp_regs _) rfl ?_⟩
    · simp [ErrCode.success]
    · simp
  · exact absurd hc hc'

/-- Any other `opstate` leaves the operation in progress (decision D15). -/
theorem State.answerOp_inProgress {s t : State} {ans : OpAnswer} (h : s.answerOp ans = .next t) (he : ans.err = 0)
    (hc : ans.opstate ≠ .completed) :
    t.op = s.op.setOpstate ans.opstate ∧ t.st = s.st ∧ t.off = s.off ∧ t.e = s.e ∧ t.phase = .idle ∧
      t.events = .returned 0 :: (s.portCalls ans.calls).events ∧ SameRegisters s t := by
  obtain ⟨-, ⟨he', -⟩ | ⟨-, hc', -⟩ | ⟨-, -, rfl⟩⟩ := State.answerOp_cases h
  · exact absurd he he'
  · exact absurd hc' hc
  · exact ⟨rfl, by simp, by simp, by simp, rfl, rfl, .of_regs (by simp)⟩

/-! ## Every change of `s` (40_lifecycle R144) -/

/-- Command `c` brings `s` from `x` to `y`. -/
def Command.Moves (c : Command) (x y : ExecState) : Prop :=
  ((c = .init ∨ c = .hardwareReset) ∧ y = .init) ∨
  ((∃ cells lIn, c = .load (some cells) lIn) ∧ x = .init ∧ y = .loaded) ∨
  (c = .execReset ∧ (x = .loaded ∨ x.terminal) ∧ y = .reset) ∨
  (c = .exec ∧ (x = .loaded ∨ x = .reset) ∧ y = .executeNext)

/-- `exec_reset` leaves `s`, or makes it RESET from LOADED or a terminal state (40_lifecycle R122). -/
theorem State.execReset_st_cases (s : State) :
    s.execReset.st = s.st ∨ (s.st = .loaded ∨ s.st.terminal) ∧ s.execReset.st = .reset := by
  cases hs : s.st <;> simp [State.execReset, hs, ExecState.terminal]

theorem State.runCommand_st_cases {s t : State} {c : Command} (h : s.runCommand c = .next t) :
    t.st = s.st ∨ c.Moves s.st t.st := by
  cases c
  case hardwareReset => cases h; exact .inr (.inl ⟨.inr rfl, rfl⟩)
  case init => cases h; exact .inr (.inl ⟨.inl rfl, rfl⟩)
  case load proc lIn =>
    cases h
    rcases s.loadCommand_cases proc lIn with ⟨_, ht⟩ | ⟨hst, cells, rfl, ht⟩ <;> rw [ht]
    · exact .inl rfl
    · exact .inr (.inr (.inl ⟨⟨cells, lIn, rfl⟩, hst, rfl⟩))
  case execReset =>
    cases h
    exact s.execReset_st_cases.imp id fun hmove => .inr (.inr (.inl ⟨rfl, hmove⟩))
  case exec =>
    rcases State.startExec_cases h with ⟨-, rfl⟩ | ⟨-, -, rfl⟩ | ⟨-, rfl⟩ | ⟨hst, rfl⟩ | ⟨-, rfl⟩
    case inr.inr.inr.inl => exact .inr (.inr (.inr (.inr ⟨rfl, hst, rfl⟩)))
    all_goals exact .inl rfl
  case port call => cases h; exact .inl (by simp)

/-- An instruction leaves `s`, ends the run or enters an operation (40_lifecycle R131, R132). -/
theorem exec_st_cases {i : Instr} {s t : State} (h : exec i s = .next t) :
    t.st = s.st ∨ t.st.terminal ∨ t.st.inOperation := by
  rcases exec_cases h with rfl | ⟨_, _, rfl⟩ | ⟨_, rfl⟩ | ⟨wr, rfl⟩ | ⟨_, rfl⟩ | ⟨_, rfl⟩
  · exact .inr (.inl rfl)
  · exact .inl rfl
  · exact .inr (.inr rfl)
  · rcases s.enterWrite_cases wr with ⟨-, ht⟩ | ⟨-, ht⟩ <;> rw [ht]
    · exact .inr (.inr rfl)
    · exact .inr (.inl rfl)
  · exact .inr (.inr rfl)
  · exact .inl rfl

theorem State.turn_st_cases {s t : State} (h : s.turn = .next t) :
    t.st = s.st ∨ t.st.terminal ∨ t.st.inOperation := by
  rcases State.turn_cases h with ⟨-, rfl⟩ | ⟨-, rfl⟩ | ⟨-, rfl⟩ | ⟨i, _, -, he⟩
  case inr.inr.inr => exact exec_st_cases (s := s.beginInstr _) he
  all_goals exact .inr (.inl rfl)

theorem State.answerOp_st_cases {s t : State} {ans : OpAnswer} (h : s.answerOp ans = .next t) :
    t.st = s.st ∨ t.st = .executeNext ∨ t.st = .errored := by
  obtain ⟨-, ⟨-, rfl⟩ | ⟨-, -, rfl⟩ | ⟨-, -, rfl⟩⟩ := State.answerOp_cases h <;> simp

theorem State.answerProbe_st_cases (s : State) (pr : ProbeRec) (ans : ProbeAnswer) :
    (s.answerProbe pr ans).st = s.st ∨ (s.answerProbe pr ans).st = .errored := by
  rcases s.answerProbe_cases pr ans with ⟨-, h⟩ | ⟨-, -, h⟩ | ⟨-, -, h⟩ <;> simp [h]

/-- A step leaves `s`, or changes it as its phase allows. -/
theorem step_st_cases {s t : State} (h : step s = .next t) :
    t.st = s.st ∨
    (s.phase = .idle ∧ ∃ c, s.host.commands.head? = some c ∧ c.Moves s.st t.st) ∨
    (s.phase = .decoding ∧ (t.st.terminal ∨ t.st.inOperation)) ∨
    (s.phase = .inHostOp ∧ (t.st = .executeNext ∨ t.st = .errored)) ∨
    ((∃ pr, s.phase = .inProbe pr) ∧ t.st = .errored) := by
  rcases step_cases h with ⟨-, -, rfl⟩ | ⟨c, _, hp, hc, hrun⟩ | ⟨hp, hturn⟩ | ⟨-, -, rfl⟩ | ⟨_, _, hp, -, hans⟩ |
    ⟨_, -, -, rfl⟩ | ⟨pr, ans, _, hp, -, rfl⟩ | ⟨-, -, rfl⟩ | ⟨_, _, -, -, rfl⟩
  · exact .inl rfl
  · exact (State.runCommand_st_cases hrun).imp id fun hmove => .inl ⟨hp, c, by rw [hc]; rfl, hmove⟩
  · exact (State.turn_st_cases hturn).imp id fun hst => .inr (.inl ⟨hp, hst⟩)
  · exact .inl rfl
  · exact (State.answerOp_st_cases hans).imp id fun hst => .inr (.inr (.inl ⟨hp, hst⟩))
  · exact .inl rfl
  · exact (s.dropProbeAnswer.answerProbe_st_cases pr ans).imp id fun hst => .inr (.inr (.inr ⟨⟨pr, hp⟩, hst⟩))
  · exact .inl rfl
  · exact .inl (by simp [State.endReturned])

/-! ## The callbacks of the operation units (40_lifecycle R129, R140) -/

@[simp] theorem State.operationCalls_portCalls (calls : List PortCall) :
    ∀ s : State, operationCalls (s.portCalls calls).events = operationCalls s.events := by
  induction calls with
  | nil => intro s; rfl
  | cons call calls ih =>
    intro s
    rw [State.portCalls, ih]
    cases call <;> rfl

/-- From `s` to `t` no operation callback is made, or one that leaves the core waiting for its answer. -/
def CallsAtMostOnce (s t : State) : Prop :=
  operationCalls t.events = operationCalls s.events ∨
    (operationCalls t.events = operationCalls s.events + 1 ∧ (t.phase = .inHostOp ∨ ∃ pr, t.phase = .inProbe pr))

theorem CallsAtMostOnce.invokeHostOp (s : State) : CallsAtMostOnce s s.invokeHostOp := .inr ⟨rfl, .inl rfl⟩

theorem CallsAtMostOnce.invokeProbe (s : State) (pr : ProbeRec) : CallsAtMostOnce s (s.invokeProbe pr) :=
  .inr ⟨rfl, .inr ⟨pr, rfl⟩⟩

theorem CallsAtMostOnce.enterOp (s : State) (o : Op) (n : Offset) (x : ExecState) :
    CallsAtMostOnce s (s.enterOp o n x) := .inr ⟨rfl, .inl rfl⟩

theorem exec_callsAtMostOnce {i : Instr} {s t : State} (h : exec i s = .next t) : CallsAtMostOnce s t := by
  rcases exec_cases h with rfl | ⟨_, _, rfl⟩ | ⟨_, rfl⟩ | ⟨wr, rfl⟩ | ⟨_, rfl⟩ | ⟨pr, rfl⟩
  · exact .inl rfl
  · exact .inl rfl
  · exact .enterOp s _ _ _
  · rcases s.enterWrite_cases wr with ⟨-, ht⟩ | ⟨-, ht⟩ <;> rw [ht]
    · exact .enterOp s _ _ _
    · exact .inl rfl
  · exact .enterOp s _ _ _
  · exact .invokeProbe s pr

theorem State.turn_callsAtMostOnce {s t : State} (h : s.turn = .next t) : CallsAtMostOnce s t := by
  rcases State.turn_cases h with ⟨-, rfl⟩ | ⟨-, rfl⟩ | ⟨-, rfl⟩ | ⟨i, _, -, he⟩
  case inr.inr.inr => exact exec_callsAtMostOnce (s := s.beginInstr _) he
  all_goals exact .inl rfl

/-- Of the commands only `exec` in an operation makes a callback (40_lifecycle R125). -/
theorem State.runCommand_callsAtMostOnce {s t : State} {c : Command} (h : s.runCommand c = .next t) :
    CallsAtMostOnce s t := by
  cases c
  case hardwareReset | init => cases h; exact .inl rfl
  case load proc lIn =>
    cases h
    rcases s.loadCommand_cases proc lIn with ⟨_, ht⟩ | ⟨-, _, -, ht⟩ <;> rw [ht] <;> exact .inl rfl
  case execReset =>
    cases h
    rcases s.execReset_cases with ⟨_, ht⟩ | ht <;> rw [ht] <;> exact .inl rfl
  case exec =>
    rcases State.startExec_cases h with ⟨-, rfl⟩ | ⟨-, -, rfl⟩ | ⟨-, rfl⟩ | ⟨-, rfl⟩ | ⟨-, rfl⟩
    case inr.inl => exact .invokeHostOp s
    all_goals exact .inl rfl
  case port call => cases h; exact .inl (s.operationCalls_portCalls [call])

/-- The answer to `HostOp` makes no operation callback, and leads out of `exec` or to `SendEnd`. -/
theorem State.answerOp_operationCalls {s t : State} {ans : OpAnswer} (h : s.answerOp ans = .next t) :
    operationCalls t.events = operationCalls s.events ∧ (t.phase = .idle ∨ t.phase = .inSendEnd) := by
  obtain ⟨-, ⟨-, rfl⟩ | ⟨-, -, rfl⟩ | ⟨-, -, rfl⟩⟩ := State.answerOp_cases h <;> simp [operationCalls]

@[simp] theorem State.answerProbe_operationCalls (s : State) (pr : ProbeRec) (ans : ProbeAnswer) :
    operationCalls (s.answerProbe pr ans).events = operationCalls s.events := by
  rcases s.answerProbe_cases pr ans with ⟨-, h⟩ | ⟨-, -, h⟩ | ⟨-, -, h⟩ <;> simp [h, operationCalls]

@[simp] theorem State.endReturned_operationCalls (s : State) (calls : List PortCall) :
    operationCalls (s.endReturned calls).events = operationCalls s.events := by
  simp [State.endReturned, operationCalls]

theorem step_callsAtMostOnce {s t : State} (h : step s = .next t) : CallsAtMostOnce s t := by
  rcases step_cases h with ⟨-, -, rfl⟩ | ⟨c, _, -, -, hrun⟩ | ⟨-, hturn⟩ | ⟨-, -, rfl⟩ | ⟨_, _, -, -, hans⟩ |
    ⟨_, -, -, rfl⟩ | ⟨_, _, _, -, -, rfl⟩ | ⟨-, -, rfl⟩ | ⟨_, _, -, -, rfl⟩
  · exact .inl rfl
  · exact State.runCommand_callsAtMostOnce (s := s.dropCommand) hrun
  · exact State.turn_callsAtMostOnce hturn
  · exact .inl rfl
  · exact .inl (State.answerOp_operationCalls hans).1
  · exact .inl rfl
  · exact .inl (by simp)
  · exact .inl rfl
  · exact .inl (by simp)

/-! ## The decoder loop ends (40_lifecycle R129) -/

/-- A turn leaves the top of the loop, or takes at least one byte and no byte beyond `L`. -/
theorem State.turn_leaves_or_advances {s t : State} (h : s.turn = .next t) :
    t.phase ≠ .decoding ∨
    (t.progLen = s.progLen ∧ s.off.toNat < t.off.toNat ∧ t.off.toNat ≤ s.progLen.toNat) := by
  obtain ⟨-, -, hlen, -⟩ := State.turn_sameProgram h
  rcases State.turn_cursor_cases h with ⟨-, rfl⟩ | ⟨n, hpos, hfit, hoff, -⟩
  · exact .inl (by simp)
  · have hnew : t.off.toNat = s.off.toNat + n := by rw [hoff, State.beginInstr_off_toNat hfit]
    exact .inr ⟨hlen, by omega, by omega⟩

/-- With at most `k` bytes left, the core leaves the top of the loop within `k + 1` turns. -/
theorem runSteps_leaves_decoder (k : Nat) : ∀ s : State, s.phase = .decoding → s.progLen.toNat - s.off.toNat ≤ k →
    ∃ n t, 1 ≤ n ∧ n ≤ k + 1 ∧ runSteps n s = some t ∧ t.phase ≠ .decoding := by
  induction k with
  | zero =>
    intro s hp hk
    exact ⟨1, s.endRun, le_rfl, le_rfl,
      by simp only [runSteps, step_of_decoding hp, State.turn_of_exhausted (s := s) (by omega)], by simp⟩
  | succ k ih =>
    intro s hp hk
    obtain ⟨t, ht⟩ := s.turn_next
    have hstep : step s = .next t := (step_of_decoding hp).trans ht
    by_cases hdec : t.phase = .decoding
    · obtain ⟨hlen, hlt, -⟩ := (State.turn_leaves_or_advances ht).resolve_left (not_not_intro hdec)
      obtain ⟨n, u, -, hn, hrun, hu⟩ := ih t hdec (by rw [hlen]; omega)
      exact ⟨n + 1, u, by omega, by omega, by simp only [runSteps, hstep, hrun], hu⟩
    · exact ⟨1, t, le_rfl, by omega, by simp only [runSteps, hstep], hdec⟩

/-! ## The statements -/

/-- Settles O14: every turn that stays in the loop takes a byte. -/
theorem decoderLoopEnds : Obligations.DecoderLoopEnds := by
  intro s _ hp
  exact runSteps_leaves_decoder _ s hp le_rfl

/-- Settles O31, by the three kinds of answers. -/
theorem hostOpAnswerResumesTheOperation : Obligations.HostOpAnswerResumesTheOperation := by
  intro s ans more hp ha hs
  obtain ⟨t, ht⟩ := State.answerOp_next (s := s.dropOpAnswer) hs ans
  obtain ⟨⟨hprog, hp', hnext, -⟩, hhost⟩ := State.answerOp_frame ht
  obtain ⟨huser, -⟩ := (State.answerOp_makesCalls ht).congr (s := s) rfl rfl rfl
  have hevents := (State.portCalls_congr ans.calls s.dropOpAnswer s rfl rfl rfl).2
  refine ⟨t, (step_of_opAnswer hp ha).trans ht, ⟨hprog, hp', hnext, huser⟩, ?_, fun he => ?_, fun he hc => ?_,
    fun he hc => ?_⟩
  · rw [hhost, State.dropOpAnswer_host, ha]
    rfl
  · obtain ⟨hlatched, hkept⟩ := State.answerOp_error ht he
    exact ⟨hlatched.congr hevents, hkept⟩
  · have hdone := State.answerOp_completed ht he hc
    rw [hevents] at hdone
    exact hdone
  · have hgoing := State.answerOp_inProgress ht he hc
    rw [hevents] at hgoing
    exact hgoing

/-- Settles O44, by the branches of the start of `exec`. -/
theorem execGoesOnWithARun : Obligations.ExecGoesOnWithARun := by
  intro s cs hissues
  rw [step_of_issues hissues]
  exact ⟨fun hst => State.startExec_of_executeNext hst, fun hst hs => State.startExec_of_inOperation hst hs⟩

/-- Settles O47: `init` by its definition, and no change of `s` but a command's ends in INIT. -/
theorem initResetsEverything : Obligations.InitResetsEverything := by
  refine ⟨fun s cs hissues => by rw [step_of_issues hissues]; rfl, fun s t hstep ht => ?_⟩
  rcases step_st_cases hstep with h | ⟨hp, c, hc, hmove⟩ | ⟨-, h | h⟩ | ⟨-, h | h⟩ | ⟨-, h⟩
  case inr.inl =>
    rcases hmove with ⟨rfl | rfl, -⟩ | ⟨-, -, h⟩ | ⟨-, -, h⟩ | ⟨-, -, h⟩
    · exact .inr ⟨hp, .inl hc⟩
    · exact .inr ⟨hp, .inr hc⟩
    all_goals rw [ht] at h; cases h
  · exact .inl (h.symm.trans ht)
  all_goals rw [ht] at h; cases h

/-- Settles O49, by the definition of each call; the step that takes an answer makes the calls first. -/
theorem portCallsReadAndWriteTheSlot : Obligations.PortCallsReadAndWriteTheSlot := by
  refine ⟨fun s cs h => by rw [step_of_issues h]; rfl, fun s cs h => by rw [step_of_issues h]; rfl,
    fun s cs v h => by rw [step_of_issues h]; rfl, fun s => ⟨rfl, fun calls => ⟨rfl, rfl, fun _ => rfl, ?_⟩⟩, ?_⟩
  · exact ⟨.of_fields (by simp) (by simp) (by simp) (by simp), .of_regs (by simp),
      ⟨by simp, by simp, by simp⟩, ⟨by simp, by simp, by simp⟩, by simp, by simp⟩
  · exact fun s t calls hstep hcalls => step_makesCalls hstep hcalls

/-- Settles O52: what each phase can do to `s`, with the invariant's value of `s` in that phase. -/
theorem everyChangeOfTheExecutionState : Obligations.EveryChangeOfTheExecutionState := by
  intro s t hInv hstep hne
  have hphase := hInv.phase
  rcases (step_st_cases hstep).resolve_left hne with hidle | ⟨hp, hst⟩ | ⟨hp, hst⟩ | ⟨⟨pr, hp⟩, hst⟩
  · exact .inl hidle
  all_goals simp only [State.phaseOk, hp] at hphase
  · exact .inr (.inl ⟨hp, hphase, hst⟩)
  · exact .inr (.inr (.inl ⟨hp, hphase, hst⟩))
  · exact .inr (.inr (.inr ⟨⟨pr, hp⟩, hphase.1, hst⟩))

/-- Settles O59, by the kinds of steps. -/
theorem oneCallbackForOneInvocation : Obligations.OneCallbackForOneInvocation := by
  intro s t hstep
  refine ⟨step_callsAtMostOnce hstep, fun hp hne => ?_⟩
  obtain ⟨ans, more, ha⟩ := List.exists_cons_of_ne_nil hne
  rw [step_of_opAnswer hp ha] at hstep
  exact State.answerOp_operationCalls (s := s.dropOpAnswer) hstep

/-- Settles O11: the turn is `endRun`; the invariant bounds `off` by `L` and has `e` 0 in EXECUTE_NEXT. -/
theorem bufferExhaustionEndsTheRun : Obligations.BufferExhaustionEndsTheRun := by
  intro s hp hend
  refine ⟨fun hInv => ?_, s.endRun, (step_of_decoding hp).trans (State.turn_of_exhausted hend), rfl, .endRun s, rfl,
    rfl, rfl, ⟨rfl, rfl, rfl⟩, .of_regs rfl, .of_fields rfl rfl rfl rfl, ⟨rfl, rfl⟩⟩
  obtain ⟨-, hle, -⟩ := hInv.offsets
  have hst : s.st = .executeNext := by simpa only [State.phaseOk, hp] using hInv.phase
  exact ⟨BitVec.eq_of_toNat_eq (by omega), hInv.error.2 (by simp [hst]) (by simp [hst])⟩

/-- Settles O43, by the start of `exec`. -/
theorem execStartsARun : Obligations.ExecStartsARun := by
  intro s cs hissues hst
  refine ⟨_, (step_of_issues hissues).trans (State.startExec_of_ready hst), rfl, rfl, rfl, rfl, rfl, rfl, rfl,
    .of_regs rfl, .of_fields rfl rfl rfl rfl, rfl, rfl, rfl⟩

end Sys2Proof.Machine

/-! PROOF. The statements about END and the configuration opcodes (41_end_config). How operand bytes make a number, what
the decoder makes of an instruction byte written by `MKINST`, and the turn of the loop at a SET stand first. -/

namespace Sys2Proof

/-! ## The value of little-endian operands (30_encoding R92) -/

/-- Bytes put before a word weigh as the word's width says. -/
theorem toNat_append_eq_add {m n : Nat} (hi : BitVec m) (lo : BitVec n) :
    (hi ++ lo).toNat = lo.toNat + 2 ^ n * hi.toNat := by
  rw [BitVec.toNat_append, ← Nat.shiftLeft_add_eq_or_of_lt lo.isLt, Nat.shiftLeft_eq]
  ring

theorem le16_toNat (b0 b1 : Byte) : (le16 b0 b1).toNat = b0.toNat + 256 * b1.toNat := by
  simp only [le16, toNat_append_eq_add]
  norm_num

theorem le24_toNat (b0 b1 b2 : Byte) : (le24 b0 b1 b2).toNat = b0.toNat + 256 * b1.toNat + 65536 * b2.toNat := by
  simp only [le24, toNat_append_eq_add]
  norm_num

theorem le32_toNat (b0 b1 b2 b3 : Byte) :
    (le32 b0 b1 b2 b3).toNat = b0.toNat + 256 * b1.toNat + 65536 * b2.toNat + 16777216 * b3.toNat := by
  simp only [le32, toNat_append_eq_add]
  norm_num

/-! ## What the decoder makes of `MKINST(o, c)` (30_encoding R90, R94, R97) -/

theorem decode_mkinst (o : BitVec 4) (c : Chan) (ops : List Byte) :
    decode .c16 (mkinst o c :: ops) = decodeOpcodeC16 o c ops := by
  obtain ⟨hreserved, hchan, hopcode⟩ := mkinst_fields o c
  simp only [decode, decodeByteC16, hreserved, hchan, hopcode, Chan.ofBits_toBits, if_true]

theorem operands1_truncated {k : Byte → Instr} {ops : List Byte} (h : ops.length + 1 < 2) :
    operands1 k ops = .truncated := by
  match ops with
  | [] => rfl

theorem operands2_truncated {k : Byte → Byte → Instr} {ops : List Byte} (h : ops.length + 1 < 3) :
    operands2 k ops = .truncated := by
  match ops with
  | [] | [_] => rfl

theorem operands3_truncated {k : Byte → Byte → Byte → Instr} {ops : List Byte} (h : ops.length + 1 < 4) :
    operands3 k ops = .truncated := by
  match ops with
  | [] | [_] | [_, _] => rfl

theorem operands4_truncated {k : Byte → Byte → Byte → Byte → Instr} {ops : List Byte} (h : ops.length + 1 < 5) :
    operands4 k ops = .truncated := by
  match ops with
  | [] | [_] | [_, _] | [_, _, _] => rfl

end Sys2Proof

namespace Sys2Proof.Machine

/-! ## The registers' values (10_state R22, R25) -/

theorem zext24_eq_ofNat {w : Nat} (v : BitVec w) : zext24 v = BitVec.ofNat 24 v.toNat := (BitVec.ofNat_toNat 24 v).symm

/-- An operand no wider than the address register keeps its value. -/
theorem zext24_toNat {w : Nat} (hw : w ≤ 24) (v : BitVec w) : (zext24 v).toNat = v.toNat :=
  BitVec.toNat_setWidth_of_le hw

theorem lenOperand_toNat (v : BitVec 16) : (lenOperand v).toNat = if v.toNat = 0 then 65536 else v.toNat := by
  unfold lenOperand
  by_cases hv : v = 0
  · simp [hv]
  · have hv' : v.toNat ≠ 0 := fun h => hv (BitVec.eq_of_toNat_eq h)
    rw [if_neg hv, if_neg hv', BitVec.toNat_setWidth_of_le (by decide)]

/-! ## The bytes at `off` (30_encoding R96) -/

/-- The window begins with the bytes the buffer holds at `off`, as far as an instruction can reach. -/
theorem State.Holds.prefix_window {s : State} {bs : List Byte} (h : s.Holds bs) (hlen : bs.length ≤ maxInstrSize) :
    bs <+: s.window := by
  have hbyte : ∀ i (hi : i < bs.length),
      s.off.toNat + i < s.progLen.toNat ∧ Memory.get s.buf (s.off.toNat + i) = bs[i] := by
    intro i hi
    simpa [State.byteAt] using h i hi
  have hle : bs.length ≤ s.window.length := by
    rw [State.length_window]
    cases hbs : bs.length with
    | zero => exact Nat.zero_le _
    | succ n =>
      obtain ⟨hlast, -⟩ := hbyte n (by omega)
      omega
  refine List.prefix_iff_getElem.mpr ⟨hle, fun i hi => ?_⟩
  rw [← (hbyte i hi).2]
  exact (Memory.bytes_getElem _ _ _ _ _).symm

/-- The decoder meets the instruction byte, then the bytes that the window holds behind it. -/
theorem State.Holds.decoded_mkinst {s : State} {o : BitVec 4} {c : Chan} {ops : List Byte}
    (h : s.Holds (mkinst o c :: ops)) (hv : s.variant = .c16) (hlen : ops.length < maxInstrSize) :
    ∃ rest, s.window.length = (ops ++ rest).length + 1 ∧ s.decoded = decodeOpcodeC16 o c (ops ++ rest) := by
  obtain ⟨rest, hrest⟩ := h.prefix_window hlen
  exact ⟨rest, by rw [← hrest]; rfl, by rw [State.decoded, hv, ← hrest]; exact decode_mkinst o c (ops ++ rest)⟩

/-! ## One turn at an instruction, and at truncated operands (40_lifecycle R129) -/

theorem State.turn_of_instr {s : State} {i : Instr} {rest : List Byte} (h : s.decoded = .instr i rest) :
    s.turn = exec i (s.beginInstr (instrSize i)) := by
  simp only [State.turn, h]

theorem State.turn_of_truncated {s : State} (h : s.decoded = .truncated) :
    s.turn = .next ((s.beginInstr 1).latch ErrCode.outOfRange) := by
  simp only [State.turn, h]

/-- Taking an instruction that the decoder found moves `off` by its size. -/
theorem State.beginInstr_off_of_decoded {s : State} {i : Instr} {rest : List Byte} (h : s.decoded = .instr i rest) :
    (s.beginInstr (instrSize i)).off.toNat = s.off.toNat + instrSize i := by
  have hsize := State.instrSize_le_of_decoded h
  have hpos := instrSize_pos i
  exact State.beginInstr_off_toNat (by omega)

/-! ## A SET writes its channel and nothing else (41_end_config R168) -/

/-- What replacing the registers of one channel leaves alone. -/
theorem State.setChan_frame (s : State) (c : Chan) (v : Channel) :
    SameOtherChannels c s (s.setChan c v) ∧ SameProgram s (s.setChan c v) ∧ SameCursor s (s.setChan c v) ∧
      SameControl s (s.setChan c v) ∧ SameHostSide s (s.setChan c v) ∧ (s.setChan c v).phase = s.phase ∧
      (s.setChan c v).events = s.events :=
  ⟨.setChan s c v, .of_fields rfl rfl rfl rfl, ⟨rfl, rfl, rfl⟩, ⟨rfl, rfl, rfl⟩, ⟨rfl, rfl⟩, rfl, rfl⟩

/-- Where the buffer holds the bytes of an instruction that replaces the registers of `c` by `f` of them, one turn does
that and stays in the loop (40_lifecycle R131). -/
theorem State.Holds.runsAsSet {s : State} {o : BitVec 4} {c : Chan} {ops : List Byte}
    (h : s.Holds (mkinst o c :: ops)) (hat : s.AtDecoder .c16) {i : Instr} {f : Channel → Channel}
    (hdec : ∀ rest, decodeOpcodeC16 o c (ops ++ rest) = .instr i rest)
    (hexec : ∀ u, exec i u = .next (u.setChan c (f (u.chan c)))) : RunsAsSet s c (instrSize i) f := by
  obtain ⟨hphase, hv⟩ := hat
  have hsize := length_of_decode_eq_instr ((decode_mkinst o c (ops ++ [])).trans (hdec []))
  have hlen : (mkinst o c :: ops).length ≤ maxInstrSize := by
    simpa using hsize.trans_le (instrSize_le_max i)
  obtain ⟨rest, -, hd⟩ := h.decoded_mkinst hv hlen
  rw [hdec] at hd
  exact ⟨_, (step_of_decoding hphase).trans ((State.turn_of_instr hd).trans (hexec _)), State.chan_setChan_same _ c _,
    SameOtherChannels.setChan _ c _, rfl, State.beginInstr_off_of_decoded hd, rfl, .of_fields rfl rfl rfl rfl,
    ⟨rfl, rfl, rfl⟩, ⟨rfl, rfl⟩, hphase, rfl⟩

/-- Where the buffer ends before the `n` bytes that an opcode needs, one turn latches OutOfRange (30_encoding R97;
decision D7). -/
theorem State.Holds.failsAsSet {s : State} {o : BitVec 4} {c : Chan} {n : Nat} (h : s.Holds [mkinst o c])
    (hat : s.AtDecoder .c16) (hdec : ∀ {ops : List Byte}, ops.length + 1 < n → decodeOpcodeC16 o c ops = .truncated) :
    FailsAsSet s n := by
  intro hshort
  obtain ⟨hphase, hv⟩ := hat
  obtain ⟨ops, hwin, hd⟩ := h.decoded_mkinst hv (by decide)
  rw [State.length_window, List.nil_append] at hwin
  have hops : ops.length + 1 < n := by omega
  have hoff := State.beginInstr_off_toNat (s := s) (n := 1) (by omega)
  exact ⟨_, (step_of_decoding hphase).trans (State.turn_of_truncated (hd.trans (hdec hops))),
    (Latched.latch _ _).congr rfl, rfl, hoff, rfl, rfl, .of_regs rfl, .of_fields rfl rfl rfl rfl, ⟨rfl, rfl⟩⟩

/-! ## The statements -/

/-- Settles O21: the decoder puts the operand together, and `exec` stores it zero-extended. -/
theorem setAddressFromBytes : Obligations.SetAddressFromBytes := by
  intro s c hat
  refine ⟨fun h => ⟨fun b0 hb => ?_, h.failsAsSet hat operands1_truncated⟩,
    fun h => ⟨fun b0 b1 hb => ?_, h.failsAsSet hat operands2_truncated⟩,
    fun h => ⟨fun b0 b1 b2 hb => ?_, h.failsAsSet hat operands3_truncated⟩⟩
  · rw [← zext24_eq_ofNat]
    exact hb.runsAsSet hat (i := .seta8 c b0) (fun _ => rfl) fun _ => rfl
  · rw [← le16_toNat, ← zext24_eq_ofNat]
    exact hb.runsAsSet hat (i := .seta16 c (le16 b0 b1)) (fun _ => rfl) fun _ => rfl
  · rw [← le24_toNat, ← zext24_eq_ofNat]
    exact hb.runsAsSet hat (i := .seta24 c (le24 b0 b1 b2)) (fun _ => rfl) fun _ => rfl

/-- Settles O22: SETTV stores its byte, SETLEN the value of its operand with 0 standing for 65536. -/
theorem setDescriptorAndLengthFromBytes : Obligations.SetDescriptorAndLengthFromBytes := by
  intro s c hat
  refine ⟨fun h => ⟨fun b0 hb => ?_, h.failsAsSet hat operands1_truncated⟩,
    fun h => ⟨fun b0 b1 hb => ?_, h.failsAsSet hat operands2_truncated⟩⟩
  · exact hb.runsAsSet hat (i := .settv c b0) (fun _ => rfl) fun _ => rfl
  · rw [← le16_toNat, ← lenOperand_toNat, BitVec.ofNat_toNat, BitVec.setWidth_eq]
    exact hb.runsAsSet hat (i := .setlen c (le16 b0 b1)) (fun _ => rfl) fun _ => rfl

/-- Settles O23: SETCMPMSK stores its two bytes, SETTIM the value of its four. -/
theorem setComparisonAndTimeoutFromBytes : Obligations.SetComparisonAndTimeoutFromBytes := by
  intro s c hat
  refine ⟨fun h => ⟨fun b0 b1 hb => ?_, h.failsAsSet hat operands2_truncated⟩,
    fun h => ⟨fun b0 b1 b2 b3 hb => ?_, h.failsAsSet hat operands4_truncated⟩⟩
  · exact hb.runsAsSet hat (i := .setcmpmsk c b0 b1) (fun _ => rfl) fun _ => rfl
  · rw [← le32_toNat, BitVec.ofNat_toNat, BitVec.setWidth_eq]
    exact hb.runsAsSet hat (i := .settim c (le32 b0 b1 b2 b3)) (fun _ => rfl) fun _ => rfl

/-- Settles O17: END is `endRun`, and a turn of the loop runs it behind its one byte. -/
theorem endEndsTheRun : Obligations.EndEndsTheRun := by
  refine ⟨fun c ops => decode_mkinst 0 c ops, fun s => ?_, fun s c hat h => ?_⟩
  · exact ⟨s.endRun, rfl, rfl, .endRun s, rfl, rfl, rfl, ⟨rfl, rfl, rfl⟩, .of_regs rfl, .of_fields rfl rfl rfl rfl,
      ⟨rfl, rfl⟩⟩
  · obtain ⟨hphase, hv⟩ := hat
    obtain ⟨rest, -, hd⟩ := h.decoded_mkinst hv (by decide)
    exact ⟨(s.beginInstr 1).endRun, (step_of_decoding hphase).trans (State.turn_of_instr hd), rfl, .endRun _, rfl, rfl,
      rfl, rfl, State.beginInstr_off_of_decoded hd, rfl, .of_regs rfl, .of_fields rfl rfl rfl rfl, ⟨rfl, rfl⟩⟩

/-- Settles O18, by the write of one channel and its frame. -/
theorem setAddressCompletes : Obligations.SetAddressCompletes := by
  intro s c
  refine ⟨fun imm => ⟨_, rfl, ?_, ?_, s.setChan_frame c _⟩, fun imm => ⟨_, rfl, ?_, ?_, s.setChan_frame c _⟩,
    fun imm => ⟨_, rfl, ?_, ?_, s.setChan_frame c _⟩⟩
  all_goals rw [State.chan_setChan_same]
  · exact zext24_toNat (by decide) imm
  · exact zext24_toNat (by decide) imm
  · exact BitVec.setWidth_eq imm

/-- Settles O19, by the write of one channel and its frame. -/
theorem setDescriptorAndLengthComplete : Obligations.SetDescriptorAndLengthComplete := by
  intro s c
  refine ⟨fun imm => ⟨_, rfl, State.chan_setChan_same s c _, s.setChan_frame c _⟩,
    fun imm => ⟨_, rfl, ?_, ?_, s.setChan_frame c _⟩⟩
  all_goals rw [State.chan_setChan_same]
  exact lenOperand_toNat imm

/-- Settles O20, by the write of one channel and its frame. -/
theorem setComparisonAndTimeoutComplete : Obligations.SetComparisonAndTimeoutComplete := by
  intro s c
  exact ⟨fun cmpv mskv => ⟨_, rfl, State.chan_setChan_same s c _, s.setChan_frame c _⟩,
    fun imm => ⟨_, rfl, State.chan_setChan_same s c _, s.setChan_frame c _⟩⟩

end Sys2Proof.Machine

/-! PROOF. The statements about READ (42_read): its entry, and its progress to the write-back. The value of each field
of a record that a channel's registers give, and what entering an operation writes, stand first. -/

namespace Sys2Proof.Machine

/-! ## The fields of a transfer record (10_state R24, R26, R42) -/

theorem tvTarget_toNat (tv : BitVec 8) : (tvTarget tv).toNat = tv.toNat % 64 := by
  simp only [tvTarget, BitVec.toNat_setWidth, BitVec.extractLsb'_toNat, Nat.shiftRight_zero]
  omega

theorem lenRaw_toNat (l : BitVec 17) : (lenRaw l).toNat = l.toNat % 65536 := BitVec.toNat_setWidth 16 l

/-- The effective length of a record is that of the channel it is built from (decision D5). -/
theorem effLen_toNat (r : Channel) : (effLen r.len).toNat = channelLength r := by
  have hzero : lenRaw r.len = 0 ↔ r.len.toNat % 65536 = 0 := by
    rw [← BitVec.toNat_inj, lenRaw_toNat]
    rfl
  simp only [effLen, channelLength, hzero]
  split
  · rfl
  · rw [BitVec.toNat_setWidth_of_le (by decide), lenRaw_toNat]

/-! ## Entering an operation (40_lifecycle R132) -/

theorem Enters.enterOp (s : State) (o : Op) (n : Offset) (x : ExecState) :
    Enters s (s.enterOp o n x) o n.toNat x :=
  ⟨rfl, rfl, rfl, rfl, rfl, rfl, rfl, rfl, .of_regs rfl, .of_fields rfl rfl rfl rfl, ⟨rfl, rfl⟩⟩

/-! ## What a write-back leaves of the registers (42_read R181) -/

/-- A channel changes at most in its address. -/
theorem WritesBack.chan_eq {s t : State} {upd : Bool} {c : Chan} {a : Addr} {l : BitVec 17}
    (h : WritesBack s t upd c a l) (d : Chan) : t.chan d = { s.chan d with a := (t.chan d).a } := by
  obtain ⟨hchan, hother⟩ := h
  by_cases hd : d = c
  · subst hd
    rw [hchan]
    cases upd <;> rfl
  · rw [hother d hd]

/-- Under UPD the address becomes the sum modulo 2^24. -/
theorem WritesBack.a_toNat {s t : State} {c : Chan} {a : Addr} {l : BitVec 17} (h : WritesBack s t true c a l) :
    (t.chan c).a.toNat = (a.toNat + l.toNat) % 2 ^ 24 := by
  rw [h.1]
  exact BitVec.toNat_ofNat ..

/-- Without UPD no register is written. -/
theorem WritesBack.sameRegisters {s t : State} {c : Chan} {a : Addr} {l : BitVec 17} (h : WritesBack s t false c a l) :
    SameRegisters s t := by
  obtain ⟨hchan, hother⟩ := h
  intro d
  by_cases hd : d = c
  · subst hd
    exact hchan
  · exact hother d hd

/-! ## The statements -/

/-- Settles O24, by the decoder's row 8, the entry of an operation and the fields of the record. -/
theorem readEntersTheOperation : Obligations.ReadEntersTheOperation := by
  refine ⟨fun c ops => decode_mkinst 8 c ops, fun s c => ?_⟩
  exact ⟨_, readRecord c (s.chan c), rfl, .enterOp s _ _ _, rfl, rfl, tvTarget_toNat _, rfl, rfl, rfl, lenRaw_toNat _,
    effLen_toNat _⟩

/-- Settles O32: the start of `exec` in an operation (O44), and the answer to `HostOp` (O31) for a READ record. -/
theorem readProgressAndCompletion : Obligations.ReadProgressAndCompletion := by
  intro s rd hst hop
  have hserves : s.op.serves s.st := by rw [hst, hop]; rfl
  refine ⟨fun hp cs hc => ?_, fun hp ans more ha he => ?_⟩
  · rw [← hop]
    exact (execGoesOnWithARun s cs ⟨hp, hc⟩).2 (by rw [hst]; rfl) hserves
  obtain ⟨t, hstep, hframe, hhost, -, hdone, hgoing⟩ := hostOpAnswerResumesTheOperation s ans more hp ha hserves
  by_cases hcompleted : ans.opstate = .completed
  · obtain ⟨hst', hop', hoff, herr, hphase, hevents, hread, -⟩ := hdone he hcompleted
    have hback : WritesBack s t rd.upd rd.ch rd.address rd.length := hread rd hop
    refine ⟨t, hstep, hframe, hhost, herr, hevents, hphase, fun c => ?_, fun _ => ?_, absurd hcompleted⟩
    · rw [hback.chan_eq c]
      exact ⟨rfl, rfl⟩
    · exact ⟨fun hupd => ⟨hback.chan_eq rd.ch, (hupd ▸ hback).a_toNat⟩, fun hupd => (hupd ▸ hback).sameRegisters,
        hback.2, hoff, hop', hst'⟩
  · obtain ⟨hop', hst', hoff, herr, hphase, hevents, hregs⟩ := hgoing he hcompleted
    refine ⟨t, hstep, hframe, hhost, herr, hevents, hphase, fun c => ?_, fun h => absurd h hcompleted, fun _ => ?_⟩
    · rw [hregs c]
      exact ⟨rfl, rfl⟩
    · exact ⟨by rw [hop', hop]; rfl, hregs, hoff, hst'.trans hst⟩

end Sys2Proof.Machine

/-! PROOF. The statement about the entry of WRITE (43_write). What entering a WRITE does with its payload inside the
buffer, and with a truncated payload, stands first, for the record of either variant. -/

namespace Sys2Proof.Machine

/-! ## Entering a WRITE (43_write R190, R191) -/

/-- The payload inside the buffer: an operation is entered with `next_off` behind the payload. The sum is below 2^32,
since `L` is. -/
theorem Enters.enterWrite {s : State} {wr : WriteRec} (h : s.off.toNat + wr.length.toNat ≤ s.progLen.toNat) :
    Enters s (s.enterWrite wr) (.write wr) (s.off.toNat + wr.length.toNat) .write := by
  obtain ⟨-, ht⟩ | ⟨hshort, -⟩ := s.enterWrite_cases wr
  · have hnext : (s.off + wr.length.setWidth 32).toNat = s.off.toNat + wr.length.toNat := by bv_omega
    rw [ht, ← hnext]
    exact .enterOp s _ _ _
  · omega

/-- The payload truncated: OutOfRange is latched and nothing else is written. -/
theorem State.enterWrite_of_truncated {s : State} {wr : WriteRec}
    (h : s.progLen.toNat < s.off.toNat + wr.length.toNat) : s.enterWrite wr = s.latch ErrCode.outOfRange := by
  obtain ⟨hfits, -⟩ | ⟨-, ht⟩ := s.enterWrite_cases wr
  · omega
  · exact ht

/-! ## The statement -/

/-- Settles O25, by the decoder's row 9, the two ways of entering a WRITE and the fields of the record. -/
theorem writeEntersTheOperationOrFails : Obligations.WriteEntersTheOperationOrFails := by
  refine ⟨fun c ops => decode_mkinst 9 c ops, fun s c => ?_⟩
  have hlen : (writeRecord c (s.chan c) s.off).length.toNat = channelLength (s.chan c) := effLen_toNat _
  rw [← hlen]
  refine ⟨fun hfits => ?_, fun hshort => ?_⟩
  · exact ⟨_, _, rfl, .enterWrite hfits, rfl, rfl, tvTarget_toNat _, rfl, rfl, rfl, lenRaw_toNat _, rfl, rfl⟩
  · exact ⟨_, congrArg Host.Outcome.next (State.enterWrite_of_truncated hshort), .latch _ _, ⟨rfl, rfl, rfl⟩,
      rfl, .of_regs rfl, .of_fields rfl rfl rfl rfl, ⟨rfl, rfl⟩⟩

end Sys2Proof.Machine

/-! PROOF. The statement about the progress and the completion of WAIT (44_wait). -/

namespace Sys2Proof.Machine

/-- Settles O33: the start of `exec` in an operation (O44), and the answer to `HostOp` (O31) for a WAIT record, of which
each of the three kinds of answers keeps the registers. -/
theorem waitProgressAndCompletion : Obligations.WaitProgressAndCompletion := by
  intro s wa hst hop
  have hserves : s.op.serves s.st := by rw [hst, hop]; rfl
  refine ⟨fun hp cs hc => ?_, fun hp ans more ha => ?_⟩
  · rw [← hop]
    exact (execGoesOnWithARun s cs ⟨hp, hc⟩).2 (by rw [hst]; rfl) hserves
  obtain ⟨t, hstep, hframe, hhost, herror, hdone, hgoing⟩ := hostOpAnswerResumesTheOperation s ans more hp ha hserves
  have hregs : SameRegisters s t := by
    by_cases he : ans.err = 0
    · by_cases hcompleted : ans.opstate = .completed
      · obtain ⟨-, -, -, -, -, -, -, -, hwait⟩ := hdone he hcompleted
        exact hwait wa hop
      · obtain ⟨-, -, -, -, -, -, hkept⟩ := hgoing he hcompleted
        exact hkept
    · obtain ⟨-, -, -, hkept⟩ := herror he
      exact hkept
  refine ⟨t, hstep, hregs, hframe, hhost, fun he hcompleted => ?_, fun he hother => ?_⟩
  · obtain ⟨hst', hop', hoff, herr, hphase, hevents, -⟩ := hdone he hcompleted
    exact ⟨hoff, hop', hst', herr, hphase, hevents⟩
  · obtain ⟨hop', hst', hoff, herr, hphase, hevents, -⟩ := hgoing he hother
    exact ⟨hoff, by rw [hop', hop]; rfl, hst'.trans hst, herr, hphase, hevents⟩

end Sys2Proof.Machine

/-! PROOF. The statements about ABORT (45_abort): the answer to its probe, and its two polarities. What the abort
condition says, and what each answer to the probe does, stand first. -/

namespace Sys2Proof.Machine

/-! ## The abort condition (45_abort R221, R222) -/

theorem ProbeRec.aborts_of_abortUnless {pr : ProbeRec} (h : pr.pol = .abortUnless) (b : Byte) :
    pr.aborts b = !cmpBytes pr.q (b &&& pr.mask) pr.expected := by
  simp only [ProbeRec.aborts, h, maskedCmp]

theorem ProbeRec.aborts_of_abortIf {pr : ProbeRec} (h : pr.pol = .abortIf) (b : Byte) :
    pr.aborts b = cmpBytes pr.q (b &&& pr.mask) pr.expected := by
  simp only [ProbeRec.aborts, h, maskedCmp]

/-- UNLESS aborts where the masked comparison fails, IF where it holds. -/
theorem ProbeRec.aborts_eq_true_iff (pr : ProbeRec) (b : Byte) :
    pr.aborts b = true ↔
      (pr.pol = .abortUnless ∧ cmpBytes pr.q (b &&& pr.mask) pr.expected = false ∨
        pr.pol = .abortIf ∧ cmpBytes pr.q (b &&& pr.mask) pr.expected = true) := by
  cases hpol : pr.pol with
  | abortUnless => simp [ProbeRec.aborts_of_abortUnless hpol]
  | abortIf => simp [ProbeRec.aborts_of_abortIf hpol]

/-- The complementary condition, under which the decoder loop goes on. -/
theorem ProbeRec.aborts_eq_false_iff (pr : ProbeRec) (b : Byte) :
    pr.aborts b = false ↔
      (pr.pol = .abortUnless ∧ cmpBytes pr.q (b &&& pr.mask) pr.expected = true ∨
        pr.pol = .abortIf ∧ cmpBytes pr.q (b &&& pr.mask) pr.expected = false) := by
  cases hpol : pr.pol with
  | abortUnless => simp [ProbeRec.aborts_of_abortUnless hpol]
  | abortIf => simp [ProbeRec.aborts_of_abortIf hpol]

/-! ## The two halves of the comparison table (44_wait R200) -/

/-- The operators up to 5 come in pairs of an operator and its negation, which differ in their lowest bit. -/
theorem cmpBytes_xor_one {q : CmpOp} (h : q.toNat ≤ 5) (x y : Byte) : cmpBytes (q ^^^ 1) x y = !cmpBytes q x y := by
  have hq : q = 0 ∨ q = 1 ∨ q = 2 ∨ q = 3 ∨ q = 4 ∨ q = 5 := by bv_omega
  rw [Bool.eq_iff_iff]
  rcases hq with rfl | rfl | rfl | rfl | rfl | rfl <;> simp [cmpBytes]

/-- The operators 6 and 7 hold of no bytes. -/
theorem cmpBytes_of_six_le {q : CmpOp} (h : 6 ≤ q.toNat) (x y : Byte) : cmpBytes q x y = false := by
  have hq : q = 6 ∨ q = 7 := by bv_omega
  rcases hq with rfl | rfl <;> rfl

/-! ## The answer to the probe (45_abort R221) -/

/-- What every answer to the probe leaves alone. -/
theorem State.answerProbe_frame (s : State) (pr : ProbeRec) (ans : ProbeAnswer) :
    FrameAnswer s (s.answerProbe pr ans) ans.calls ∧ (s.answerProbe pr ans).host = s.host ∧
      (s.answerProbe pr ans).op = s.op ∧ SameRegisters s (s.answerProbe pr ans) := by
  have hprog := s.answerProbe_sameProgram pr ans
  have huser := (s.answerProbe_makesCalls pr ans).1
  rcases s.answerProbe_cases pr ans with ⟨-, h⟩ | ⟨-, -, h⟩ | ⟨-, -, h⟩ <;> rw [h] at hprog huser ⊢ <;>
    exact ⟨⟨hprog, by simp, by simp, huser⟩, by simp, by simp, .of_regs (by simp)⟩

/-- An error of the probe is latched as it is, whatever byte comes with it. -/
theorem State.answerProbe_of_error (s : State) (pr : ProbeRec) {ans : ProbeAnswer} (he : ans.err ≠ 0) :
    s.answerProbe pr ans = (s.portCalls ans.calls).latch ans.err := by
  obtain ⟨-, h⟩ | ⟨he', -⟩ | ⟨he', -⟩ := s.answerProbe_cases pr ans
  · exact h
  · exact absurd he' he
  · exact absurd he' he

/-- A byte that meets the abort condition latches Aborted. -/
theorem State.answerProbe_of_aborts (s : State) {pr : ProbeRec} {ans : ProbeAnswer} (he : ans.err = 0)
    (hab : pr.aborts ans.byte = true) :
    s.answerProbe pr ans = (s.portCalls ans.calls).latch ErrCode.aborted := by
  obtain ⟨he', -⟩ | ⟨-, -, h⟩ | ⟨-, hgo, -⟩ := s.answerProbe_cases pr ans
  · exact absurd he he'
  · exact h
  · simp [hab] at hgo

/-- A byte that does not meet it sends the core back to the top of the decoder loop, and nothing else. -/
theorem State.answerProbe_of_goesOn (s : State) {pr : ProbeRec} {ans : ProbeAnswer} (he : ans.err = 0)
    (hgo : pr.aborts ans.byte = false) :
    s.answerProbe pr ans = { s.portCalls ans.calls with phase := .decoding } := by
  obtain ⟨he', -⟩ | ⟨-, hab, -⟩ | ⟨-, -, h⟩ := s.answerProbe_cases pr ans
  · exact absurd he he'
  · simp [hgo] at hab
  · exact h

/-! ## The statements -/

/-- Settles O37, by the three answers to the probe: its error, a byte that aborts, a byte that does not. -/
theorem probeAnswerDecidesTheAbort : Obligations.ProbeAnswerDecidesTheAbort := by
  refine ⟨fun s pr => ⟨rfl, rfl, ⟨rfl, rfl, rfl⟩, ⟨rfl, rfl, rfl⟩, .of_regs rfl, .of_fields rfl rfl rfl rfl,
    ⟨rfl, rfl⟩⟩, fun s pr ans more hp ha => ?_⟩
  obtain ⟨⟨hprog, hp', hnext, -⟩, hhost, hop, hregs⟩ := s.dropProbeAnswer.answerProbe_frame pr ans
  obtain ⟨huser, -⟩ := (s.dropProbeAnswer.answerProbe_makesCalls pr ans).congr (s := s) rfl rfl rfl
  have hevents := (State.portCalls_congr ans.calls s.dropProbeAnswer s rfl rfl rfl).2
  refine ⟨_, step_of_probeAnswer hp ha, ⟨hprog, hp', hnext, huser⟩, ?_, State.answerProbe_off _ pr ans, hop, hregs,
    fun he => ?_, fun he => ⟨fun hab => ?_, fun hgo => ?_⟩⟩
  · rw [hhost, State.dropProbeAnswer_host, ha]
    rfl
  · rw [State.answerProbe_of_error _ pr he]
    exact (Latched.latch _ _).congr hevents
  · rw [State.answerProbe_of_aborts _ he ((pr.aborts_eq_true_iff _).mpr hab)]
    exact (Latched.latch _ _).congr hevents
  · rw [State.answerProbe_of_goesOn _ he ((pr.aborts_eq_false_iff _).mpr hgo)]
    exact ⟨rfl, by simp, by simp, hevents⟩

/-- Settles O41: up to 5 the operator's lowest bit negates the comparison, and 6 and 7 never hold. -/
theorem abortPolaritiesAgree : Obligations.AbortPolaritiesAgree := by
  refine fun pr b => ⟨fun hq => ?_, fun hq => ?_⟩
  · rw [ProbeRec.aborts_of_abortIf rfl, ProbeRec.aborts_of_abortUnless rfl, cmpBytes_xor_one hq, Bool.not_not]
  · rw [ProbeRec.aborts_of_abortUnless rfl, ProbeRec.aborts_of_abortIf rfl, cmpBytes_of_six_le hq]
    exact ⟨rfl, rfl⟩

end Sys2Proof.Machine

/-! PROOF. The statements about exceptions (60_exceptions): when `SendEnd` is invoked, what a latched error leaves
unwritten, and a core that waits for its host. Which steps invoke `SendEnd`, and that every step into ERRORED is the
latch, stands first. -/

namespace Sys2Proof.Machine

/-! ## The invocations of `SendEnd` (60_exceptions R259) -/

@[simp] theorem State.sendEnds_portCalls (calls : List PortCall) :
    ∀ s : State, sendEnds (s.portCalls calls).events = sendEnds s.events := by
  induction calls with
  | nil => intro s; rfl
  | cons call calls ih =>
    intro s
    rw [State.portCalls, ih]
    cases call <;> rfl

/-- From `s` to `t` no `SendEnd` is invoked and no terminal state is entered. -/
def DoesNotEnd (s t : State) : Prop :=
  sendEnds t.events = sendEnds s.events ∧ (t.st.terminal → s.st.terminal)

/-- From `s` to `t` one `SendEnd` is invoked, and `t` is in a terminal state. -/
def EndsOnce (s t : State) : Prop := sendEnds t.events = sendEnds s.events + 1 ∧ t.st.terminal

theorem DoesNotEnd.refl (s : State) : DoesNotEnd s s := ⟨rfl, id⟩

theorem EndsOnce.endRun (s : State) : EndsOnce s s.endRun := ⟨rfl, rfl⟩

theorem EndsOnce.latch (s : State) (k : Byte) : EndsOnce s (s.latch k) := ⟨rfl, rfl⟩

/-- An error that is latched behind the calls made from inside a callback. -/
theorem EndsOnce.latch_portCalls (s : State) (calls : List PortCall) (k : Byte) :
    EndsOnce s ((s.portCalls calls).latch k) := ⟨by simp [sendEnds], rfl⟩

theorem exec_end_cases {i : Instr} {s t : State} (h : exec i s = .next t) : DoesNotEnd s t ∨ EndsOnce s t := by
  rcases exec_cases h with rfl | ⟨_, _, rfl⟩ | ⟨_, rfl⟩ | ⟨wr, rfl⟩ | ⟨_, rfl⟩ | ⟨_, rfl⟩
  · exact .inr (.endRun s)
  · exact .inl ⟨rfl, id⟩
  · exact .inl ⟨rfl, nofun⟩
  · rcases s.enterWrite_cases wr with ⟨-, ht⟩ | ⟨-, ht⟩ <;> rw [ht]
    · exact .inl ⟨rfl, nofun⟩
    · exact .inr (.latch s _)
  · exact .inl ⟨rfl, nofun⟩
  · exact .inl ⟨rfl, id⟩

theorem State.turn_end_cases {s t : State} (h : s.turn = .next t) : DoesNotEnd s t ∨ EndsOnce s t := by
  rcases State.turn_cases h with ⟨-, rfl⟩ | ⟨-, rfl⟩ | ⟨-, rfl⟩ | ⟨_, _, -, he⟩
  · exact .inr (.endRun s)
  · exact .inr (.latch (s.beginInstr 1) _)
  · exact .inr (.latch (s.beginInstr 1) _)
  · exact exec_end_cases (s := s.beginInstr _) he

/-- No command ends a run: `exec` only starts the decoder loop or an operation callback (40_lifecycle R120 to R125). -/
theorem State.runCommand_doesNotEnd {s t : State} {c : Command} (h : s.runCommand c = .next t) : DoesNotEnd s t := by
  cases c
  case hardwareReset | init => cases h; exact ⟨rfl, nofun⟩
  case load proc lIn =>
    cases h
    rcases s.loadCommand_cases proc lIn with ⟨_, ht⟩ | ⟨-, _, -, ht⟩ <;> rw [ht]
    · exact ⟨rfl, id⟩
    · exact ⟨rfl, nofun⟩
  case execReset =>
    cases h
    rcases s.execReset_cases with ⟨_, ht⟩ | ht <;> rw [ht]
    · exact ⟨rfl, id⟩
    · exact ⟨rfl, nofun⟩
  case exec =>
    rcases State.startExec_cases h with ⟨-, rfl⟩ | ⟨-, -, rfl⟩ | ⟨-, rfl⟩ | ⟨-, rfl⟩ | ⟨-, rfl⟩
    case inr.inr.inr.inl => exact ⟨rfl, nofun⟩
    all_goals exact ⟨rfl, id⟩
  case port call => cases h; exact ⟨s.sendEnds_portCalls [call], by simp⟩

theorem State.answerOp_end_cases {s t : State} {ans : OpAnswer} (h : s.answerOp ans = .next t) :
    DoesNotEnd s t ∨ EndsOnce s t := by
  obtain ⟨-, ⟨-, rfl⟩ | ⟨-, -, rfl⟩ | ⟨-, -, rfl⟩⟩ := State.answerOp_cases h
  · exact .inr (.latch_portCalls s _ _)
  · exact .inl ⟨by simp [sendEnds], by simp [ExecState.terminal]⟩
  · exact .inl ⟨by simp [sendEnds], by simp⟩

theorem State.answerProbe_end_cases (s : State) (pr : ProbeRec) (ans : ProbeAnswer) :
    DoesNotEnd s (s.answerProbe pr ans) ∨ EndsOnce s (s.answerProbe pr ans) := by
  rcases s.answerProbe_cases pr ans with ⟨-, h⟩ | ⟨-, -, h⟩ | ⟨-, -, h⟩ <;> rw [h]
  · exact .inr (.latch_portCalls s _ _)
  · exact .inr (.latch_portCalls s _ _)
  · exact .inl ⟨by simp, by simp⟩

theorem State.endReturned_doesNotEnd (s : State) (calls : List PortCall) : DoesNotEnd s (s.endReturned calls) :=
  ⟨by simp [State.endReturned, sendEnds], by simp [State.endReturned]⟩

/-- A step ends no run, or ends one with a single `SendEnd`; the second only in the decoder or in an answer of the host
to an operation unit. -/
theorem step_end_cases {s t : State} (h : step s = .next t) :
    DoesNotEnd s t ∨ (s.phase ≠ .idle ∧ s.phase ≠ .inSendEnd ∧ EndsOnce s t) := by
  rcases step_cases h with ⟨-, -, rfl⟩ | ⟨_, _, -, -, hrun⟩ | ⟨hp, hturn⟩ | ⟨-, -, rfl⟩ | ⟨_, _, hp, -, hans⟩ |
    ⟨_, -, -, rfl⟩ | ⟨pr, ans, _, hp, -, rfl⟩ | ⟨-, -, rfl⟩ | ⟨calls, _, -, -, rfl⟩
  · exact .inl (.refl _)
  · exact .inl (State.runCommand_doesNotEnd (s := s.dropCommand) hrun)
  · exact (State.turn_end_cases hturn).imp id fun hend => ⟨by simp [hp], by simp [hp], hend⟩
  · exact .inl (.refl _)
  · exact (State.answerOp_end_cases (s := s.dropOpAnswer) hans).imp id fun hend => ⟨by simp [hp], by simp [hp], hend⟩
  · exact .inl (.refl _)
  · exact (s.dropProbeAnswer.answerProbe_end_cases pr ans).imp id fun hend => ⟨by simp [hp], by simp [hp], hend⟩
  · exact .inl (.refl _)
  · exact .inl (s.dropEndReturn.endReturned_doesNotEnd calls)

/-- Inside `exec`, before `SendEnd`, the run has not ended (log 3). -/
theorem State.Inv.terminal_eq_false {s : State} (h : s.Inv) (hidle : s.phase ≠ .idle) (hend : s.phase ≠ .inSendEnd) :
    s.st.terminal = false := by
  have hphase := h.phase
  unfold State.phaseOk at hphase
  split at hphase
  case h_1 hp => exact absurd hp hidle
  case h_2 => rw [hphase]; rfl
  case h_3 => rcases (ExecState.inOperation_iff _).mp hphase with hst | hst | hst <;> rw [hst] <;> rfl
  case h_4 => rw [hphase.1]; rfl
  case h_5 hp => exact absurd hp hend

/-! ## Every step into ERRORED is the latch (60_exceptions R255) -/

/-- Of the instructions only a WRITE with a truncated payload latches an error (43_write R191). -/
theorem exec_eq_latch {i : Instr} {s t : State} (h : exec i s = .next t) (hs : s.st ≠ .errored)
    (ht : t.st = .errored) : t = s.latch ErrCode.outOfRange := by
  rcases exec_cases h with rfl | ⟨_, _, rfl⟩ | ⟨_, rfl⟩ | ⟨wr, rfl⟩ | ⟨_, rfl⟩ | ⟨_, rfl⟩
  case inr.inl | inr.inr.inr.inr.inr => exact absurd ht hs
  case inr.inr.inr.inl =>
    rcases s.enterWrite_cases wr with ⟨-, hw⟩ | ⟨-, hw⟩
    · rw [hw] at ht
      cases ht
    · exact hw
  all_goals cases ht

/-- A turn into ERRORED takes at least one byte, all of them inside the buffer, and latches an error code. -/
theorem State.turn_eq_latch {s t : State} (h : s.turn = .next t) (hs : s.st ≠ .errored) (ht : t.st = .errored) :
    ∃ k n, k ≠ 0 ∧ 1 ≤ n ∧ s.off.toNat + n ≤ s.progLen.toNat ∧ t = (s.beginInstr n).latch k := by
  by_cases hend : s.progLen.toNat ≤ s.off.toNat
  · rw [State.turn_of_exhausted hend] at h
    cases h
    cases ht
  · rcases State.turn_cases h with ⟨-, rfl⟩ | ⟨-, rfl⟩ | ⟨-, rfl⟩ | ⟨i, _, hd, he⟩
    · cases ht
    · exact ⟨_, 1, by decide, le_rfl, by omega, rfl⟩
    · exact ⟨_, 1, by decide, le_rfl, by omega, rfl⟩
    · have hsize := State.instrSize_le_of_decoded hd
      exact ⟨_, instrSize i, by decide, instrSize_pos i, by omega, exec_eq_latch he hs ht⟩

/-- An answer to `HostOp` into ERRORED latches an error code behind the calls made from inside the callback. -/
theorem State.answerOp_eq_latch {s t : State} {ans : OpAnswer} (h : s.answerOp ans = .next t) (hs : s.st ≠ .errored)
    (ht : t.st = .errored) : ∃ k, k ≠ 0 ∧ t = (s.portCalls ans.calls).latch k := by
  obtain ⟨-, ⟨he, rfl⟩ | ⟨-, -, rfl⟩ | ⟨-, -, rfl⟩⟩ := State.answerOp_cases h
  · exact ⟨_, he, rfl⟩
  · simp at ht
  · simp [hs] at ht

/-- An answer to the probe into ERRORED latches an error code behind the calls made from inside the callback. -/
theorem State.answerProbe_eq_latch {s : State} {pr : ProbeRec} {ans : ProbeAnswer} (hs : s.st ≠ .errored)
    (ht : (s.answerProbe pr ans).st = .errored) :
    ∃ k, k ≠ 0 ∧ s.answerProbe pr ans = (s.portCalls ans.calls).latch k := by
  rcases s.answerProbe_cases pr ans with ⟨he, h⟩ | ⟨-, -, h⟩ | ⟨-, -, h⟩
  · exact ⟨_, he, h⟩
  · exact ⟨_, by decide, h⟩
  · simp [h, hs] at ht

/-- No command leads into ERRORED. -/
theorem State.runCommand_st_ne_errored {s t : State} {c : Command} (h : s.runCommand c = .next t)
    (hs : s.st ≠ .errored) : t.st ≠ .errored := by
  intro ht
  rcases State.runCommand_st_cases h with hst | ⟨-, hst⟩ | ⟨-, -, hst⟩ | ⟨-, -, hst⟩ | ⟨-, -, hst⟩
  · exact hs (hst.symm.trans ht)
  all_goals rw [ht] at hst; cases hst

/-- A step into ERRORED latches an error code: in the decoder behind the bytes taken, else in an answer of the host,
which is then used up, behind the calls made from inside the callback. -/
theorem step_eq_latch {s t : State} (h : step s = .next t) (hs : s.st ≠ .errored) (ht : t.st = .errored) :
    ∃ k, k ≠ 0 ∧
      ((s.phase = .decoding ∧ ∃ n, 1 ≤ n ∧ s.off.toNat + n ≤ s.progLen.toNat ∧ t = (s.beginInstr n).latch k) ∨
       (s.phase ≠ .decoding ∧ ∃ host calls, t = (State.portCalls { s with host := host } calls).latch k)) := by
  rcases step_cases h with ⟨-, -, rfl⟩ | ⟨_, _, -, -, hrun⟩ | ⟨hp, hturn⟩ | ⟨-, -, rfl⟩ | ⟨_, _, hp, -, hans⟩ |
    ⟨_, -, -, rfl⟩ | ⟨_, ans, _, hp, -, rfl⟩ | ⟨-, -, rfl⟩ | ⟨_, _, -, -, rfl⟩
  · exact absurd ht hs
  · exact absurd ht (State.runCommand_st_ne_errored (s := s.dropCommand) hrun hs)
  · obtain ⟨k, n, hk, hturn⟩ := State.turn_eq_latch hturn hs ht
    exact ⟨k, hk, .inl ⟨hp, n, hturn⟩⟩
  · exact absurd ht hs
  · obtain ⟨k, hk, hlatch⟩ := State.answerOp_eq_latch (s := s.dropOpAnswer) hans hs ht
    exact ⟨k, hk, .inr ⟨by simp [hp], _, _, hlatch⟩⟩
  · exact absurd ht hs
  · obtain ⟨k, hk, hlatch⟩ := State.answerProbe_eq_latch (s := s.dropProbeAnswer) hs ht
    exact ⟨k, hk, .inr ⟨by simp [hp], _, _, hlatch⟩⟩
  · exact absurd ht hs
  · exact absurd (by simpa [State.endReturned] using ht) hs

/-! ## A core that waits for its host (60_exceptions R267, 70_reset_and_hazards R297; log 9) -/

/-- The host has no move left at the port the core waits at. -/
def State.WaitsForever (s : State) : Prop :=
  s.phase = .idle ∧ s.host.commands = [] ∨ s.phase = .inHostOp ∧ s.host.opAnswers = [] ∨
    (∃ pr, s.phase = .inProbe pr) ∧ s.host.probeAnswers = [] ∨ s.phase = .inSendEnd ∧ s.host.endReturns = []

theorem step_of_waitsForever {s : State} (h : s.WaitsForever) : step s = .next s := by
  rcases h with ⟨hp, hc⟩ | ⟨hp, hc⟩ | ⟨⟨pr, hp⟩, hc⟩ | ⟨hp, hc⟩
  · simp only [step, State.cycle, hp, State.idleMove, hc]
  · simp only [step, State.cycle, hp, State.opMove, hc]
  · simp only [step, State.cycle, hp, State.probeMove, hc]
  · simp only [step, State.cycle, hp, State.endMove, hc]

/-- A state that a step leaves as it is stays as it is in every run. -/
theorem runSteps_of_step_self {s : State} (h : step s = .next s) (n : Nat) : runSteps n s = some s := by
  induction n with
  | zero => rfl
  | succ n ih => simp only [runSteps, h, ih]

/-! ## The statements -/

/-- Settles O50: the invariant has no terminal `s` where a step can invoke `SendEnd`. -/
theorem sendEndExactlyAtTheEnd : Obligations.SendEndExactlyAtTheEnd := by
  intro s t hInv hstep
  rcases step_end_cases hstep with ⟨hcount, hterm⟩ | ⟨hidle, hend, hcount, hterm⟩
  · have hnot : ¬ (s.st.terminal = false ∧ t.st.terminal = true) := fun ⟨hs, ht⟩ => by simp [hterm ht] at hs
    rw [hcount, if_neg hnot, Nat.add_zero]
  · rw [hcount, if_pos ⟨hInv.terminal_eq_false hidle hend, hterm⟩]

/-- Settles O51: the step is the latch, and the latch writes `e` and `s` only. -/
theorem errorsArePrecise : Obligations.ErrorsArePrecise := by
  intro s t _ hstep hs ht
  obtain ⟨k, hk, ⟨hp, n, hpos, hfit, rfl⟩ | ⟨hp, host, calls, rfl⟩⟩ := step_eq_latch hstep hs ht
  · have hoff : ((s.beginInstr n).latch k).off.toNat = s.off.toNat + n := State.beginInstr_off_toNat hfit
    exact ⟨hk, rfl, .of_regs rfl, .of_fields rfl rfl rfl rfl, rfl, rfl, rfl, fun _ => ⟨rfl, by omega, rfl⟩, absurd hp⟩
  · exact ⟨hk, rfl, .of_regs (by simp), .of_fields (by simp) (by simp) (by simp) (by simp), by simp, by simp, rfl,
      fun hdec => absurd hdec hp, fun _ => ⟨by simp, by simp⟩⟩

/-- Settles O60: a step of a core that waits forever is no change, and so is every run of such steps. -/
theorem waitingCoreHoldsItsState : Obligations.WaitingCoreHoldsItsState :=
  fun n _ hwait => runSteps_of_step_self (step_of_waitsForever hwait) n

end Sys2Proof.Machine

/-! PROOF. The statements about the encoding (30_encoding, 46_minimal_variant): what the decoder makes of an encoded
instruction, and what of any other bytes. The bytes of a number put together from bytes, the fields of an instruction
byte, and the row of the opcode table that an accepted instruction is of stand first. -/

namespace Sys2Proof

/-! ## The bytes of an operand put together (30_encoding R92) -/

theorem le16_inj {a0 a1 b0 b1 : Byte} (h : le16 a0 a1 = le16 b0 b1) : a0 = b0 ∧ a1 = b1 := by
  have hsum := congrArg BitVec.toNat h
  simp only [le16_toNat] at hsum
  constructor <;> bv_omega

theorem le24_inj {a0 a1 a2 b0 b1 b2 : Byte} (h : le24 a0 a1 a2 = le24 b0 b1 b2) : a0 = b0 ∧ a1 = b1 ∧ a2 = b2 := by
  have hsum := congrArg BitVec.toNat h
  simp only [le24_toNat] at hsum
  refine ⟨?_, ?_, ?_⟩ <;> bv_omega

theorem le32_inj {a0 a1 a2 a3 b0 b1 b2 b3 : Byte} (h : le32 a0 a1 a2 a3 = le32 b0 b1 b2 b3) :
    a0 = b0 ∧ a1 = b1 ∧ a2 = b2 ∧ a3 = b3 := by
  have hsum := congrArg BitVec.toNat h
  simp only [le32_toNat] at hsum
  refine ⟨?_, ?_, ?_, ?_⟩ <;> bv_omega

/-- A number read from its bytes gives the same bytes back. -/
theorem byteOf_le16 (b0 b1 : Byte) : byteOf (le16 b0 b1) 0 = b0 ∧ byteOf (le16 b0 b1) 1 = b1 :=
  le16_inj (le16_byteOf _)

theorem byteOf_le24 (b0 b1 b2 : Byte) :
    byteOf (le24 b0 b1 b2) 0 = b0 ∧ byteOf (le24 b0 b1 b2) 1 = b1 ∧ byteOf (le24 b0 b1 b2) 2 = b2 :=
  le24_inj (le24_byteOf _)

theorem byteOf_le32 (b0 b1 b2 b3 : Byte) :
    byteOf (le32 b0 b1 b2 b3) 0 = b0 ∧ byteOf (le32 b0 b1 b2 b3) 1 = b1 ∧ byteOf (le32 b0 b1 b2 b3) 2 = b2 ∧
      byteOf (le32 b0 b1 b2 b3) 3 = b3 :=
  le32_inj (le32_byteOf _)

/-! ## The fields of an instruction byte (30_encoding R90, R95; 46_minimal_variant R231) -/

theorem reservedC16_eq_zero_iff (ib : Byte) : ib.extractLsb' 6 2 = 0 ↔ ib.toNat < 64 := by
  revert ib
  decide

theorem reservedM4_eq_zero_iff (ib : Byte) : ib.extractLsb' 5 3 = 0 ↔ ib.toNat < 32 := by
  revert ib
  decide

/-- Without reserved bits, the table's mask leaves the opcode field. -/
theorem and_maskC16 (ib : Byte) (h : ib.extractLsb' 6 2 = 0) :
    ib &&& opcodeMask .c16 = (ib.extractLsb' 0 4).setWidth 8 := by
  revert ib
  decide

theorem and_maskM4 (ib : Byte) (h : ib.extractLsb' 5 3 = 0) :
    ib &&& opcodeMask .m4 = (ib.extractLsb' 0 2).setWidth 8 := by
  revert ib
  decide

theorem decode_mkinstM4 (o : BitVec 2) (q : CmpOp) (ops : List Byte) :
    decode .m4 (mkinstM4 o q :: ops) = decodeOpcodeM4 o q ops := by
  obtain ⟨hreserved, hq, hopcode⟩ := mkinstM4_fields o q
  simp only [decode, decodeByteM4, hreserved, hq, hopcode, if_true]

/-! ## The row of an accepted instruction (30_encoding R94) -/

/-- An instruction that `d` holds is of variant `v` and of the row with match value `m`, and its operand bytes stand at
the front of `ops`. -/
def Decoded.IsOfRow (d : Decoded) (v : Variant) (m : Byte) (ops : List Byte) : Prop :=
  ∀ i rest, d = .instr i rest → i.variant = v ∧ opcodeMatch i = m ∧ ops = (encode i).tail ++ rest

theorem Decoded.isOfRow_instr {i : Instr} (h : (encode i).tail = []) (ops : List Byte) :
    Decoded.IsOfRow (.instr i ops) i.variant (opcodeMatch i) ops := by
  rintro _ _ ⟨⟩
  exact ⟨rfl, rfl, by rw [h]; rfl⟩

section
variable {v : Variant} {m : Byte}

theorem operands1_isOfRow {k : Byte → Instr}
    (hk : ∀ b0, (k b0).variant = v ∧ opcodeMatch (k b0) = m ∧ (encode (k b0)).tail = [b0]) (ops : List Byte) :
    (operands1 k ops).IsOfRow v m ops := by
  unfold operands1
  split
  case h_1 b0 _ => rintro _ _ ⟨⟩; obtain ⟨hv, hm, he⟩ := hk b0; exact ⟨hv, hm, by rw [he]; rfl⟩
  case h_2 => exact nofun

theorem operands2_isOfRow {k : Byte → Byte → Instr}
    (hk : ∀ b0 b1, (k b0 b1).variant = v ∧ opcodeMatch (k b0 b1) = m ∧ (encode (k b0 b1)).tail = [b0, b1])
    (ops : List Byte) : (operands2 k ops).IsOfRow v m ops := by
  unfold operands2
  split
  case h_1 b0 b1 _ => rintro _ _ ⟨⟩; obtain ⟨hv, hm, he⟩ := hk b0 b1; exact ⟨hv, hm, by rw [he]; rfl⟩
  case h_2 => exact nofun

theorem operands3_isOfRow {k : Byte → Byte → Byte → Instr}
    (hk : ∀ b0 b1 b2, (k b0 b1 b2).variant = v ∧ opcodeMatch (k b0 b1 b2) = m ∧
      (encode (k b0 b1 b2)).tail = [b0, b1, b2])
    (ops : List Byte) : (operands3 k ops).IsOfRow v m ops := by
  unfold operands3
  split
  case h_1 b0 b1 b2 _ => rintro _ _ ⟨⟩; obtain ⟨hv, hm, he⟩ := hk b0 b1 b2; exact ⟨hv, hm, by rw [he]; rfl⟩
  case h_2 => exact nofun

theorem operands4_isOfRow {k : Byte → Byte → Byte → Byte → Instr}
    (hk : ∀ b0 b1 b2 b3, (k b0 b1 b2 b3).variant = v ∧ opcodeMatch (k b0 b1 b2 b3) = m ∧
      (encode (k b0 b1 b2 b3)).tail = [b0, b1, b2, b3])
    (ops : List Byte) : (operands4 k ops).IsOfRow v m ops := by
  unfold operands4
  split
  case h_1 b0 b1 b2 b3 _ => rintro _ _ ⟨⟩; obtain ⟨hv, hm, he⟩ := hk b0 b1 b2 b3; exact ⟨hv, hm, by rw [he]; rfl⟩
  case h_2 => exact nofun

theorem operandsTransfer_isOfRow {k : Byte → Addr → Byte → Instr}
    (hk : ∀ chip a len, (k chip a len).variant = v ∧ opcodeMatch (k chip a len) = m ∧
      (encode (k chip a len)).tail = [chip, byteOf a 0, byteOf a 1, byteOf a 2, len])
    (ops : List Byte) : (operandsTransfer k ops).IsOfRow v m ops := by
  unfold operandsTransfer
  split
  case h_1 chip lo hi bank len _ =>
    rintro _ _ ⟨⟩
    obtain ⟨hv, hm, he⟩ := hk chip (le24 lo hi bank) len
    obtain ⟨hlo, hhi, hbank⟩ := byteOf_le24 lo hi bank
    exact ⟨hv, hm, by rw [he, hlo, hhi, hbank]; rfl⟩
  case h_2 => exact nofun

theorem operandsTest_isOfRow {k : Byte → Addr → Byte → Byte → Instr}
    (hk : ∀ chip a value mask, (k chip a value mask).variant = v ∧ opcodeMatch (k chip a value mask) = m ∧
      (encode (k chip a value mask)).tail = [chip, byteOf a 0, byteOf a 1, byteOf a 2, value, mask])
    (ops : List Byte) : (operandsTest k ops).IsOfRow v m ops := by
  unfold operandsTest
  split
  case h_1 chip lo hi bank value mask _ =>
    rintro _ _ ⟨⟩
    obtain ⟨hv, hm, he⟩ := hk chip (le24 lo hi bank) value mask
    obtain ⟨hlo, hhi, hbank⟩ := byteOf_le24 lo hi bank
    exact ⟨hv, hm, by rw [he, hlo, hhi, hbank]; rfl⟩
  case h_2 => exact nofun

end

theorem decodeOpcodeC16_isOfRow (o : BitVec 4) (c : Chan) (ops : List Byte) :
    (decodeOpcodeC16 o c ops).IsOfRow .c16 (o.setWidth 8) ops := by
  have ho : o.setWidth 8 = BitVec.ofNat 8 o.toNat := (BitVec.ofNat_toNat 8 o).symm
  have hlt := o.isLt
  rw [ho]
  unfold decodeOpcodeC16
  generalize o.toNat = n at hlt ⊢
  split
  case h_2 | h_5 => refine operands1_isOfRow ?_ ops; exact fun _ => ⟨rfl, rfl, rfl⟩
  case h_7 => refine operands2_isOfRow ?_ ops; exact fun _ _ => ⟨rfl, rfl, rfl⟩
  case h_3 | h_6 =>
    refine operands2_isOfRow ?_ ops
    exact fun b0 b1 => ⟨rfl, rfl, by obtain ⟨h0, h1⟩ := byteOf_le16 b0 b1; simp [encode, h0, h1]⟩
  case h_4 =>
    refine operands3_isOfRow ?_ ops
    exact fun b0 b1 b2 => ⟨rfl, rfl, by obtain ⟨h0, h1, h2⟩ := byteOf_le24 b0 b1 b2; simp [encode, h0, h1, h2]⟩
  case h_8 =>
    refine operands4_isOfRow ?_ ops
    exact fun b0 b1 b2 b3 =>
      ⟨rfl, rfl, by obtain ⟨h0, h1, h2, h3⟩ := byteOf_le32 b0 b1 b2 b3; simp [encode, h0, h1, h2, h3]⟩
  case h_16 =>
    obtain rfl : n = 15 := by simp only [imp_false] at *; omega
    exact Decoded.isOfRow_instr (i := .waitWhileGte c) rfl ops
  all_goals exact Decoded.isOfRow_instr (by rfl) ops

theorem decodeOpcodeM4_isOfRow (o : BitVec 2) (q : CmpOp) (ops : List Byte) :
    (decodeOpcodeM4 o q ops).IsOfRow .m4 (o.setWidth 8) ops := by
  have ho : o.setWidth 8 = BitVec.ofNat 8 o.toNat := (BitVec.ofNat_toNat 8 o).symm
  have hlt := o.isLt
  rw [ho]
  unfold decodeOpcodeM4
  generalize o.toNat = n at hlt ⊢
  split
  case h_1 | h_2 => refine operandsTransfer_isOfRow ?_ ops; exact fun _ _ _ => ⟨rfl, rfl, rfl⟩
  case h_3 => refine operandsTest_isOfRow ?_ ops; exact fun _ _ _ _ => ⟨rfl, rfl, rfl⟩
  case h_4 =>
    obtain rfl : n = 3 := by simp only [imp_false] at *; omega
    refine operandsTest_isOfRow ?_ ops
    exact fun _ _ _ _ => ⟨rfl, rfl, rfl⟩

/-- What the decoder accepts is of the row that the instruction byte selects under the table's mask. -/
theorem decode_isOfRow (v : Variant) (ib : Byte) (ops : List Byte) :
    (decode v (ib :: ops)).IsOfRow v (ib &&& opcodeMask v) ops := by
  cases v
  case c16 =>
    simp only [decode, decodeByteC16]
    split
    case isTrue h => rw [and_maskC16 ib h]; exact decodeOpcodeC16_isOfRow _ _ ops
    case isFalse => exact nofun
  case m4 =>
    simp only [decode, decodeByteM4]
    split
    case isTrue h => rw [and_maskM4 ib h]; exact decodeOpcodeM4_isOfRow _ _ ops
    case isFalse => exact nofun

/-- A build accepts instructions of its own variant only (00_scope R2). -/
theorem wellFormed_of_decode {v : Variant} {bs rest : List Byte} {i : Instr} (h : decode v bs = .instr i rest) :
    WellFormed v i := by
  cases bs with
  | nil => cases h
  | cons ib ops => exact (decode_isOfRow v ib ops i rest h).1

/-! ## Unknown and truncated bytes (30_encoding R95, R97) -/

theorem Decoded.FitsOperands.ne_unknownOpcode {d : Decoded} {ops : List Byte} (h : d.FitsOperands ops) :
    d ≠ .unknownOpcode := by
  rcases h with rfl | ⟨_, _, rfl, -⟩ <;> exact nofun

/-- The first instruction byte of a variant that has reserved bits. -/
def firstReserved : Variant → Nat
  | .c16 => 64
  | .m4 => 32

theorem decode_eq_unknownOpcode_iff (v : Variant) (ib : Byte) (ops : List Byte) :
    decode v (ib :: ops) = .unknownOpcode ↔ firstReserved v ≤ ib.toNat := by
  cases v
  case c16 =>
    simp only [decode, decodeByteC16, firstReserved]
    split
    case isTrue h => simpa [(decodeOpcodeC16_fits _ _ ops).ne_unknownOpcode] using (reservedC16_eq_zero_iff ib).mp h
    case isFalse h => simpa using mt (reservedC16_eq_zero_iff ib).mpr h
  case m4 =>
    simp only [decode, decodeByteM4, firstReserved]
    split
    case isTrue h => simpa [(decodeOpcodeM4_fits _ _ ops).ne_unknownOpcode] using (reservedM4_eq_zero_iff ib).mp h
    case isFalse h => simpa using mt (reservedM4_eq_zero_iff ib).mpr h

/-- The length of the format of a row of the opcode table (30_encoding R91, R94; 46_minimal_variant R232). -/
def rowSize : Variant → Byte → Nat
  | .c16, m => [1, 2, 3, 4, 2, 3, 3, 5].getD m.toNat 1
  | .m4, m => if m.toNat < 2 then 6 else 7

theorem instrSize_eq_rowSize (i : Instr) : instrSize i = rowSize i.variant (opcodeMatch i) := by cases i <;> rfl

theorem opcodeMatch_toNat_lt (i : Instr) : (opcodeMatch i).toNat < 16 := by cases i <;> simp [opcodeMatch]

/-- An instruction byte of a row of the table has no reserved bits. -/
theorem toNat_lt_firstReserved {v : Variant} {ib : Byte} {i : Instr} (h : ib &&& opcodeMask v = opcodeMatch i) :
    ib.toNat < firstReserved v := by
  have hrow := opcodeMatch_toNat_lt i
  rw [← h] at hrow
  clear h
  cases v <;> revert ib <;> decide

/-- The decoder meets truncated operands where fewer bytes are left than the format of the row has. -/
theorem decode_eq_truncated {v : Variant} {ib : Byte} {ops : List Byte} {i : Instr} (hwf : WellFormed v i)
    (hrow : ib &&& opcodeMask v = opcodeMatch i) (hshort : (ib :: ops).length < instrSize i) :
    decode v (ib :: ops) = .truncated := by
  rcases decode_cons_cases v ib ops with hd | hd | ⟨j, rest, hd, hlen⟩
  · have hge := (decode_eq_unknownOpcode_iff v ib ops).mp hd
    have hlt := toNat_lt_firstReserved hrow
    omega
  · exact hd
  · obtain ⟨hv, hm, -⟩ := decode_isOfRow v ib ops j rest hd
    have hsize : instrSize j = instrSize i := by
      rw [instrSize_eq_rowSize, instrSize_eq_rowSize, hv, hm, hrow, hwf]
    rw [List.length_cons] at hshort
    omega

/-! ## The statements -/

/-- Settles O6, by the rows of the table: `MKINST` gives its fields back, and so does each format's operand. -/
theorem decodeOfEncodeIsTheInstruction : Obligations.DecodeOfEncodeIsTheInstruction := by
  rintro _ i rest rfl
  cases i
  case m4Read | m4Write => exact (decode_mkinstM4 ..).trans (by simp [decodeOpcodeM4, operandsTransfer])
  case m4WaitUntil | m4AbortUnless => exact (decode_mkinstM4 ..).trans (by simp [decodeOpcodeM4, operandsTest])
  case seta16 | setlen => exact (decode_mkinst ..).trans (by simp [decodeOpcodeC16, operands2])
  case seta24 => exact (decode_mkinst ..).trans (by simp [decodeOpcodeC16, operands3])
  case settim => exact (decode_mkinst ..).trans (by simp [decodeOpcodeC16, operands4])
  all_goals exact decode_mkinst ..

/-- Settles O7: the instruction is of the row that its byte selects, and the bytes it does not take are left over. -/
theorem decodeTakesExactlyOneInstruction : Obligations.DecodeTakesExactlyOneInstruction := by
  intro v bs rest i h
  have hlen := length_of_decode_eq_instr h
  cases bs with
  | nil => cases h
  | cons ib ops =>
    obtain ⟨hv, hm, rfl⟩ := decode_isOfRow v ib ops i rest h
    refine ⟨hv, ib, (encode i).tail, rfl, ?_, hm.symm, by cases i <;> rfl⟩
    simp only [List.length_cons, List.length_append] at hlen ⊢
    omega

/-- Settles O8, by the reserved bits of each variant. -/
theorem reservedBitsAreUnknown : Obligations.ReservedBitsAreUnknown :=
  fun ib ops => ⟨decode_eq_unknownOpcode_iff .c16 ib ops, decode_eq_unknownOpcode_iff .m4 ib ops⟩

/-- Settles O9, by running the decoder on the thirteen words. -/
theorem wordsOfTheSpecDecode : Obligations.WordsOfTheSpecDecode := by
  unfold Obligations.WordsOfTheSpecDecode
  decide

end Sys2Proof

/-! PROOF. The statements about the machine invariant: it holds at reset, every step keeps it, and no state that meets
it stops. The invariant's record clause in terms of the record alone, and what each shared operation keeps, stand
first. -/

namespace Sys2Proof.Machine

/-! ## The record of an operation (10_state R34, R41 to R43) -/

/-- An active record fits the variant, `off` and `next_off`, and its `opstate` is INIT or CONTINUE. -/
def Op.Fits (v : Variant) (off next : Offset) : Op → Prop
  | .idle => False
  | .read rd =>
    rd.opstate ≠ .completed ∧ next = off ∧ lengthOk v rd.lengthRaw rd.length ∧ recordFits v rd.ch rd.chip rd.upd
  | .write wr =>
    wr.opstate ≠ .completed ∧ wr.dataOffset = off ∧ next.toNat = off.toNat + wr.length.toNat ∧
      lengthOk v wr.lengthRaw wr.length ∧ recordFits v wr.ch wr.chip wr.upd
  | .wait wa =>
    wa.opstate ≠ .completed ∧ next = off ∧ (v = .c16 → wa.comparisonOperator.toNat < 6) ∧
      recordFits v wa.ch wa.chip false

theorem Op.serves_read_iff (rd : ReadRec) (x : ExecState) : (Op.read rd).serves x ↔ x = .read := by
  cases x <;> simp [Op.serves]

theorem Op.serves_write_iff (wr : WriteRec) (x : ExecState) : (Op.write wr).serves x ↔ x = .write := by
  cases x <;> simp [Op.serves]

theorem Op.serves_wait_iff (wa : WaitRec) (x : ExecState) : (Op.wait wa).serves x ↔ x = .wait := by
  cases x <;> simp [Op.serves]

/-- A record serves only states with an operation in progress. -/
theorem Op.serves_inOperation {o : Op} {x : ExecState} (h : o.serves x) : x.inOperation := by
  cases o
  case idle => cases h
  case read rd => rw [(Op.serves_read_iff rd x).mp h]; rfl
  case write wr => rw [(Op.serves_write_iff wr x).mp h]; rfl
  case wait wa => rw [(Op.serves_wait_iff wa x).mp h]; rfl

@[simp] theorem Op.serves_setOpstate (o : Op) (x : OpState) (y : ExecState) :
    (o.setOpstate x).serves y = o.serves y := by cases o <;> cases y <;> rfl

/-- Another `opstate` than COMPLETED leaves a record that fits (decision D15). -/
theorem Op.Fits.setOpstate {v : Variant} {off next : Offset} {o : Op} (h : o.Fits v off next) {x : OpState}
    (hx : x ≠ .completed) : (o.setOpstate x).Fits v off next := by
  cases o
  case idle => exact h
  all_goals exact ⟨hx, h.2⟩

/-- The invariant's record clause: no record and no operation, or a record that fits, in its own state or kept while
`SendEnd` reports its failure (42_read R183). -/
theorem State.recordOk_iff (s : State) :
    s.recordOk ↔ (s.op = .idle ∧ s.st.inOperation = false) ∨
      ((s.op.serves s.st ∨ s.st = .errored ∧ s.phase = .inSendEnd) ∧ s.op.Fits s.variant s.off s.nextOff) := by
  unfold State.recordOk
  split
  case h_1 hop => simp [hop, Op.Fits]
  case h_2 hop => simp [hop, Op.Fits, Op.serves_read_iff]
  case h_3 hop => simp [hop, Op.Fits, Op.serves_write_iff]
  case h_4 hop => simp [hop, Op.Fits, Op.serves_wait_iff]

theorem State.recordOk_of_idle {s : State} (hop : s.op = .idle) (hst : s.st.inOperation = false) : s.recordOk :=
  s.recordOk_iff.mpr (.inl ⟨hop, hst⟩)

theorem State.recordOk_of_serves {s : State} (hserves : s.op.serves s.st)
    (hfits : s.op.Fits s.variant s.off s.nextOff) : s.recordOk := s.recordOk_iff.mpr (.inr ⟨.inl hserves, hfits⟩)

/-- Without an operation, and without a failed one being reported, there is no record. -/
theorem State.Inv.op_eq_idle {s : State} (h : s.Inv) (hst : s.st.inOperation = false)
    (hrep : s.st ≠ .errored ∨ s.phase ≠ .inSendEnd) : s.op = .idle := by
  rcases s.recordOk_iff.mp h.record with ⟨hop, -⟩ | ⟨hserves | ⟨he, hp⟩, -⟩
  · exact hop
  · simp [Op.serves_inOperation hserves] at hst
  · simp [he, hp] at hrep

theorem State.Inv.op_eq_idle_of_executeNext {s : State} (h : s.Inv) (hst : s.st = .executeNext) : s.op = .idle :=
  h.op_eq_idle (by rw [hst]; rfl) (.inl (by simp [hst]))

/-- With an operation in progress the record is its own, and fits. -/
theorem State.Inv.serves_and_fits {s : State} (h : s.Inv) (hst : s.st.inOperation) :
    s.op.serves s.st ∧ s.op.Fits s.variant s.off s.nextOff := by
  rcases s.recordOk_iff.mp h.record with ⟨-, hno⟩ | ⟨hserves | ⟨he, -⟩, hfits⟩
  · simp [hst] at hno
  · exact ⟨hserves, hfits⟩
  · simp [he, ExecState.inOperation] at hst

/-! ## `s` in each phase (log 3) -/

theorem State.Inv.st_of_decoding {s : State} (h : s.Inv) (hp : s.phase = .decoding) : s.st = .executeNext := by
  simpa only [State.phaseOk, hp] using h.phase

theorem State.Inv.st_of_inHostOp {s : State} (h : s.Inv) (hp : s.phase = .inHostOp) : s.st.inOperation := by
  simpa only [State.phaseOk, hp] using h.phase

theorem State.Inv.st_of_inProbe {s : State} {pr : ProbeRec} (h : s.Inv) (hp : s.phase = .inProbe pr) :
    s.st = .executeNext := by
  have hphase := h.phase
  simp only [State.phaseOk, hp] at hphase
  exact hphase.1

theorem State.Inv.st_of_inSendEnd {s : State} (h : s.Inv) (hp : s.phase = .inSendEnd) : s.st.terminal := by
  simpa only [State.phaseOk, hp] using h.phase

theorem ExecState.ne_init_of_inOperation {x : ExecState} (h : x.inOperation) : x ≠ .init := by rintro rfl; cases h

theorem ExecState.ne_init_of_terminal {x : ExecState} (h : x.terminal) : x ≠ .init := by rintro rfl; cases h

theorem ExecState.not_inOperation_of_terminal {x : ExecState} (h : x.terminal) : x.inOperation = false := by
  revert h
  cases x <;> decide

/-- `e` is 0 while an operation is in progress. -/
theorem State.Inv.e_eq_zero_of_inOperation {s : State} (h : s.Inv) (hst : s.st.inOperation) : s.e = 0 := by
  refine h.error.2 ?_ ?_ <;> intro hs <;> simp [hs, ExecState.inOperation] at hst

theorem State.Inv.e_eq_zero_of_executeNext {s : State} (h : s.Inv) (hst : s.st = .executeNext) : s.e = 0 :=
  h.error.2 (by simp [hst]) (by simp [hst])

/-! ## The clauses of the invariant over a change of the state -/

/-- The buffer clause sees the program, and of `s` only whether it is INIT. -/
theorem State.bufferOk.congr {s t : State} (h : s.bufferOk) (hprog : SameProgram s t)
    (hst : t.st = .init ↔ s.st = .init) : t.bufferOk := by
  obtain ⟨-, hpres, hlen, hbuf, -⟩ := hprog
  unfold State.bufferOk
  rw [hpres, hlen, hbuf, hst]
  exact h

/-- `s` moves between states other than INIT. -/
theorem State.bufferOk.of_ne_init {s t : State} (h : s.bufferOk) (hprog : SameProgram s t) (hs : s.st ≠ .init)
    (ht : t.st ≠ .init) : t.bufferOk := h.congr hprog (by simp [hs, ht])

/-- The invariant does not see `userdata`, the host's inputs and the record of outputs. -/
theorem State.Inv.withHostSide {s : State} (h : s.Inv) (u : UserData) (host : HostInputs) (evs : List Event) :
    State.Inv { s with userdata := u, host := host, events := evs } :=
  ⟨h.buffer, h.offsets, h.lengths, h.error, h.phase, h.record⟩

theorem State.portCall_eq (s : State) (call : PortCall) :
    s.portCall call = { s with userdata := (s.portCall call).userdata, events := (s.portCall call).events } := by
  cases call <;> rfl

theorem State.Inv.portCall {s : State} (h : s.Inv) (call : PortCall) : (s.portCall call).Inv := by
  rw [State.portCall_eq]
  exact h.withHostSide _ _ _

theorem State.Inv.portCalls (calls : List PortCall) : ∀ {s : State}, s.Inv → (s.portCalls calls).Inv := by
  induction calls with
  | nil => exact id
  | cons call calls ih => exact fun h => ih (h.portCall call)

/-! ## What the shared operations keep -/

/-- A return between commands. -/
theorem State.Inv.returnCode {s : State} (h : s.Inv) (hp : s.phase = .idle) (k : Byte) : (s.returnCode k).Inv := by
  have heq : s.returnCode k = { s with events := .returned k :: s.events } := by rw [State.returnCode, ← hp]
  rw [heq]
  exact h.withHostSide _ _ _

/-- The error latch, outside INIT (60_exceptions R255). -/
theorem State.Inv.latch {s : State} (h : s.Inv) (hst : s.st ≠ .init) {k : Byte} (hk : k ≠ 0) : (s.latch k).Inv where
  buffer := h.buffer.of_ne_init (.of_fields rfl rfl rfl rfl) hst nofun
  offsets := h.offsets
  lengths := h.lengths
  error := ⟨fun _ => hk, absurd rfl⟩
  phase := rfl
  record := (State.recordOk_iff _).mpr <| (s.recordOk_iff.mp h.record).imp
    (fun ⟨hop, _⟩ => ⟨hop, rfl⟩) fun ⟨_, hfits⟩ => ⟨.inr ⟨rfl, rfl⟩, hfits⟩

section
variable {s : State} (h : s.Inv) (hst : s.st = .executeNext)
include h hst

/-- In EXECUTE_NEXT the core may go on decoding. -/
theorem State.Inv.resumeDecoding : State.Inv { s with phase := .decoding } where
  buffer := h.buffer
  offsets := h.offsets
  lengths := h.lengths
  error := h.error
  phase := hst
  record := State.recordOk_of_idle (h.op_eq_idle_of_executeNext hst) (by simp [hst, ExecState.inOperation])

theorem State.Inv.endRun : s.endRun.Inv where
  buffer := h.buffer.of_ne_init (.of_fields rfl rfl rfl rfl) (by simp [hst]) nofun
  offsets := h.offsets
  lengths := h.lengths
  error := ⟨nofun, fun _ _ => h.e_eq_zero_of_executeNext hst⟩
  phase := rfl
  record := State.recordOk_of_idle (h.op_eq_idle_of_executeNext hst) rfl

/-- Taking bytes that lie inside the buffer (10_state R32, R33). -/
theorem State.Inv.beginInstr {n : Nat} (hn : s.off.toNat + n ≤ s.progLen.toNat) : (s.beginInstr n).Inv where
  buffer := h.buffer
  offsets := by
    obtain ⟨-, -, hnext⟩ := h.offsets
    have hoff := State.beginInstr_off_toNat hn
    unfold State.offsetsOk
    rw [hoff]
    exact ⟨Nat.le_add_right _ n, hn, hnext⟩
  lengths := h.lengths
  error := h.error
  phase := h.phase
  record := State.recordOk_of_idle (h.op_eq_idle_of_executeNext hst) (by simp [hst, ExecState.inOperation])

/-- Entering an operation with a record that fits (40_lifecycle R132). -/
theorem State.Inv.enterOp {o : Op} {next : Offset} {x : ExecState} (hnext : next.toNat ≤ s.progLen.toNat)
    (hx : o.serves x) (hfits : o.Fits s.variant s.off next) : (s.enterOp o next x).Inv where
  buffer := h.buffer.of_ne_init (.of_fields rfl rfl rfl rfl) (by simp [hst])
    (ExecState.ne_init_of_inOperation (Op.serves_inOperation hx))
  offsets := ⟨h.offsets.1, h.offsets.2.1, hnext⟩
  lengths := h.lengths
  error := by
    refine ⟨fun hx' => ?_, fun _ _ => h.e_eq_zero_of_executeNext hst⟩
    have hin := Op.serves_inOperation hx
    rw [show x = .errored from hx'] at hin
    cases hin
  phase := Op.serves_inOperation hx
  record := State.recordOk_of_serves hx hfits

theorem State.Inv.enterRead {rd : ReadRec} (hfits : (Op.read rd).Fits s.variant s.off s.off) :
    (s.enterRead rd).Inv := h.enterOp hst h.offsets.2.1 rfl hfits

theorem State.Inv.enterWait {wa : WaitRec} (hfits : (Op.wait wa).Fits s.variant s.off s.off) :
    (s.enterWait wa).Inv := h.enterOp hst h.offsets.2.1 rfl hfits

/-- Entering a WRITE, or failing with a truncated payload (43_write R191). -/
theorem State.Inv.enterWrite {wr : WriteRec}
    (hfits : ∀ next : Offset, next.toNat = s.off.toNat + wr.length.toNat → (Op.write wr).Fits s.variant s.off next) :
    (s.enterWrite wr).Inv := by
  rcases s.enterWrite_cases wr with ⟨hle, ht⟩ | ⟨-, ht⟩ <;> rw [ht]
  · have hnext : (s.off + wr.length.setWidth 32).toNat = s.off.toNat + wr.length.toNat := by bv_omega
    exact h.enterOp hst (by omega) rfl (hfits _ hnext)
  · exact h.latch (by simp [hst]) (by decide)

theorem State.Inv.invokeProbe (hv : s.variant = .m4) (pr : ProbeRec) : (s.invokeProbe pr).Inv where
  buffer := h.buffer
  offsets := h.offsets
  lengths := h.lengths
  error := h.error
  phase := ⟨hst, hv⟩
  record := State.recordOk_of_idle (h.op_eq_idle_of_executeNext hst) (by simp [hst, ExecState.inOperation])

end

/-- Replacing the registers of a channel, with a length in range (10_state R25). -/
theorem State.Inv.setChan {s : State} (h : s.Inv) {c : Chan} {v : Channel} (hlen : v.len.toNat ≤ 65536) :
    (s.setChan c v).Inv where
  buffer := h.buffer
  offsets := h.offsets
  lengths := fun d => by
    by_cases hd : d = c
    · rw [hd, State.chan_setChan_same]
      exact hlen
    · rw [State.chan_setChan_of_ne s v hd]
      exact h.lengths d
  error := h.error
  phase := h.phase
  record := h.record

/-! ## The records of the instructions fit -/

theorem lenOperand_le (imm : BitVec 16) : (lenOperand imm).toNat ≤ 65536 := by
  rw [lenOperand_toNat]
  split <;> omega

theorem tvTarget_lt (tv : BitVec 8) : (tvTarget tv).toNat < 64 := by
  rw [tvTarget_toNat]
  omega

/-- A length byte of M4 and the length it stands for (46_minimal_variant R233). -/
theorem lengthOk_effLenM4 (len : Byte) : lengthOk .m4 (len.setWidth 16) (effLenM4 len) := by
  revert len
  unfold lengthOk
  decide

theorem readRecord_fits (c : Chan) (r : Channel) (off : Offset) :
    (Op.read (readRecord c r)).Fits .c16 off off := ⟨nofun, rfl, rfl, tvTarget_lt r.tv⟩

theorem writeRecord_fits (c : Chan) (r : Channel) (off next : Offset)
    (hnext : next.toNat = off.toNat + (effLen r.len).toNat) : (Op.write (writeRecord c r off)).Fits .c16 off next :=
  ⟨nofun, rfl, hnext, rfl, tvTarget_lt r.tv⟩

theorem waitRecord_fits (c : Chan) (r : Channel) (off : Offset) {q : CmpOp} (hq : q.toNat < 6) :
    (Op.wait (waitRecord c r q)).Fits .c16 off off := ⟨nofun, rfl, fun _ => hq, tvTarget_lt r.tv⟩

theorem readRecordM4_fits (chip : Byte) (a : Addr) (len : Byte) (off : Offset) :
    (Op.read (readRecordM4 chip a len)).Fits .m4 off off := ⟨nofun, rfl, lengthOk_effLenM4 len, rfl, rfl⟩

theorem writeRecordM4_fits (chip : Byte) (a : Addr) (len : Byte) (off next : Offset)
    (hnext : next.toNat = off.toNat + (effLenM4 len).toNat) :
    (Op.write (writeRecordM4 chip a len off)).Fits .m4 off next :=
  ⟨nofun, rfl, hnext, lengthOk_effLenM4 len, rfl, rfl⟩

theorem waitRecordM4_fits (q : CmpOp) (chip : Byte) (a : Addr) (value mask : Byte) (off : Offset) :
    (Op.wait (waitRecordM4 q chip a value mask)).Fits .m4 off off := ⟨nofun, rfl, nofun, rfl, rfl⟩

/-! ## The decoder loop keeps the invariant -/

theorem exec_keeps_inv {i : Instr} {s t : State} (hInv : s.Inv) (hst : s.st = .executeNext)
    (hwf : WellFormed s.variant i) (h : exec i s = .next t) : t.Inv := by
  cases i <;> cases h
  case endProc => exact hInv.endRun hst
  case seta8 c _ | seta16 c _ | seta24 c _ | settv c _ | setcmpmsk c _ _ | settim c _ =>
    exact hInv.setChan (hInv.lengths c)
  case setlen c imm => exact hInv.setChan (lenOperand_le imm)
  case read c => exact hInv.enterRead hst (hwf ▸ readRecord_fits c _ _)
  case write c => exact hInv.enterWrite hst (hwf ▸ writeRecord_fits c _ _)
  case m4Read chip a len => exact hInv.enterRead hst (hwf ▸ readRecordM4_fits chip a len _)
  case m4Write chip a len => exact hInv.enterWrite hst (hwf ▸ writeRecordM4_fits chip a len _)
  case m4WaitUntil q chip a value mask => exact hInv.enterWait hst (hwf ▸ waitRecordM4_fits q chip a value mask _)
  case m4AbortUnless => exact hInv.invokeProbe hst hwf.symm _
  all_goals exact hInv.enterWait hst (hwf ▸ waitRecord_fits _ _ _ (by decide))

theorem State.turn_keeps_inv {s t : State} (hInv : s.Inv) (hst : s.st = .executeNext) (h : s.turn = .next t) :
    t.Inv := by
  have hbyte : s.decoded ≠ .noByte → s.off.toNat + 1 ≤ s.progLen.toNat := fun hd =>
    Nat.lt_of_not_le (mt s.decoded_eq_noByte_iff.mpr hd)
  rcases State.turn_cases h with ⟨-, rfl⟩ | ⟨hd, rfl⟩ | ⟨hd, rfl⟩ | ⟨i, rest, hd, he⟩
  · exact hInv.endRun hst
  · exact (hInv.beginInstr hst (hbyte (by simp [hd]))).latch (by simp [hst]) (by decide)
  · exact (hInv.beginInstr hst (hbyte (by simp [hd]))).latch (by simp [hst]) (by decide)
  · have hsize := State.instrSize_le_of_decoded hd
    have hin := hbyte (by simp [hd])
    exact exec_keeps_inv (hInv.beginInstr hst (by omega)) hst (wellFormed_of_decode hd) he

/-! ## The host's answers keep the invariant -/

/-- A write-back writes no length (42_read R181). -/
theorem State.writeBackOp_len (s : State) (c : Chan) : (s.writeBackOp.chan c).len = (s.chan c).len := by
  have hwrite : ∀ u d a l, ((s.writeBack u d a l).chan c).len = (s.chan c).len := fun u d a l => by
    rw [(WritesBack.of_regs (s := s) (t := s.writeBack u d a l) rfl).chan_eq c]
  unfold State.writeBackOp
  split
  case h_1 | h_2 => exact hwrite _ _ _ _
  case h_3 | h_4 => rfl

/-- The completion of an operation, whatever record the answer left (40_lifecycle R140, R142). -/
theorem State.Inv.complete {s : State} (h : s.Inv) (hst : s.st.inOperation) (o : Op) (k : Byte) :
    ((s.setOp o).completeOp.returnCode k).Inv where
  buffer := h.buffer.of_ne_init (.of_fields (by simp) (by simp) (by simp) (by simp))
    (ExecState.ne_init_of_inOperation hst) (by simp)
  offsets := by
    obtain ⟨hp, -, hnext⟩ := h.offsets
    have hle := h.off_le_nextOff (h.serves_and_fits hst).1
    simpa [State.offsetsOk] using ⟨hp.trans hle, hnext⟩
  lengths := fun c => ((s.setOp o).writeBackOp_len c).symm ▸ h.lengths c
  error := by simpa [State.errorOk] using h.e_eq_zero_of_inOperation hst
  phase := trivial
  record := State.recordOk_of_idle (by simp) (by simp [ExecState.inOperation])

/-- An answer that leaves the operation in progress (decision D15). -/
theorem State.Inv.goOn {s : State} (h : s.Inv) (hst : s.st.inOperation) {x : OpState} (hx : x ≠ .completed)
    (k : Byte) : ((s.setOp (s.op.setOpstate x)).returnCode k).Inv where
  buffer := h.buffer
  offsets := h.offsets
  lengths := h.lengths
  error := h.error
  phase := trivial
  record := by
    obtain ⟨hserves, hfits⟩ := h.serves_and_fits hst
    exact State.recordOk_of_serves (by simpa using hserves) (hfits.setOpstate hx)

theorem State.answerOp_keeps_inv {s t : State} {ans : OpAnswer} (hInv : s.Inv) (hst : s.st.inOperation)
    (h : s.answerOp ans = .next t) : t.Inv := by
  have hcalls := hInv.portCalls ans.calls
  have hst' : (s.portCalls ans.calls).st.inOperation := by simpa using hst
  obtain ⟨-, ⟨he, rfl⟩ | ⟨-, -, rfl⟩ | ⟨-, hx, rfl⟩⟩ := State.answerOp_cases h
  · exact hcalls.latch (ExecState.ne_init_of_inOperation hst') he
  · exact hcalls.complete hst' _ _
  · rw [← State.portCalls_op ans.calls s]
    exact hcalls.goOn hst' hx _

theorem State.answerProbe_keeps_inv {s : State} (hInv : s.Inv) (hst : s.st = .executeNext) (pr : ProbeRec)
    (ans : ProbeAnswer) : (s.answerProbe pr ans).Inv := by
  have hcalls := hInv.portCalls ans.calls
  rcases s.answerProbe_cases pr ans with ⟨he, h⟩ | ⟨-, -, h⟩ | ⟨-, -, h⟩ <;> rw [h]
  · exact hcalls.latch (by simp [hst]) he
  · exact hcalls.latch (by simp [hst]) (by decide)
  · exact hcalls.resumeDecoding (by simp [hst])

/-- The return of `SendEnd` in a terminal state drops the record (log 10). -/
theorem State.Inv.dropRecord {s : State} (h : s.Inv) (hst : s.st.terminal) (k : Byte) :
    ((s.setOp .idle).returnCode k).Inv where
  buffer := h.buffer
  offsets := h.offsets
  lengths := h.lengths
  error := h.error
  phase := trivial
  record := State.recordOk_of_idle rfl (ExecState.not_inOperation_of_terminal hst)

theorem State.endReturned_keeps_inv {s : State} (hInv : s.Inv) (hst : s.st.terminal) (calls : List PortCall) :
    (s.endReturned calls).Inv := (hInv.portCalls calls).dropRecord (by simpa using hst) _

/-! ## The commands keep the invariant -/

theorem State.reset_inv : State.reset.Inv where
  buffer := ⟨Memory.wf_nil, nofun, by simp [State.reset], fun _ => rfl⟩
  offsets := ⟨le_rfl, le_rfl, le_rfl⟩
  lengths := fun c => by cases c <;> decide
  error := ⟨nofun, fun _ _ => rfl⟩
  phase := trivial
  record := rfl

/-- The invariant does not see the variant of a state without a record and without a probe. -/
theorem State.clear_inv (s : State) : s.clear.Inv where
  buffer := State.reset_inv.buffer
  offsets := State.reset_inv.offsets
  lengths := State.reset_inv.lengths
  error := State.reset_inv.error
  phase := trivial
  record := rfl

/-- `load` in INIT, where the offsets are still 0 (40_lifecycle R121). -/
theorem State.Inv.load {s : State} (h : s.Inv) (hst : s.st = .init) (cells : List Host.Cell) (lIn : Offset) (k : Byte) :
    (State.returnCode
      { s with procPresent := true, buf := Memory.ofCells lIn.toNat cells, progLen := lIn, st := .loaded } k).Inv where
  buffer := ⟨Memory.wf_ofCells _ _, fun _ hc => Memory.ofCells_lt hc, by simp, nofun⟩
  offsets := by
    obtain ⟨hp, hoff, hnext⟩ := h.offsets
    obtain ⟨-, -, hpres, hzero⟩ := h.buffer
    rw [hzero (hpres.mpr hst)] at hoff hnext
    have hL : (0 : Offset).toNat = 0 := rfl
    exact ⟨hp, by simp; omega, by simp; omega⟩
  lengths := h.lengths
  error := ⟨nofun, fun _ _ => h.error.2 (by simp [hst]) (by simp [hst])⟩
  phase := trivial
  record := State.recordOk_of_idle (h.op_eq_idle (by rw [hst]; rfl) (.inl (by simp [hst]))) rfl

theorem State.loadCommand_keeps_inv {s : State} (hInv : s.Inv) (hp : s.phase = .idle)
    (proc : Option (List Host.Cell)) (lIn : Offset) : (s.loadCommand proc lIn).Inv := by
  rcases s.loadCommand_cases proc lIn with ⟨k, ht⟩ | ⟨hst, cells, -, ht⟩ <;> rw [ht]
  · exact hInv.returnCode hp k
  · exact hInv.load hst cells lIn _

theorem State.execReset_of_rejected {s : State} (h : s.st = .init ∨ s.st.inFlight) :
    s.execReset = s.returnCode ErrCode.invalidOperationForState := by
  cases hs : s.st <;> simp [hs, ExecState.inFlight] at h <;> simp only [State.execReset, hs]

theorem State.execReset_of_accepted {s : State} (h : ¬(s.st = .init ∨ s.st.inFlight)) :
    s.execReset = State.returnCode { s with st := .reset } ErrCode.success := by
  cases hs : s.st <;> simp [hs, ExecState.inFlight] at h <;> simp only [State.execReset, hs]

theorem ExecState.not_inOperation_of_not_inFlight {x : ExecState} (h : ¬x.inFlight) : x.inOperation = false := by
  revert h
  cases x <;> decide

/-- Between commands, outside INIT and outside a run, `s` may become RESET (decision D11). -/
theorem State.Inv.toReset {s : State} (h : s.Inv) (hp : s.phase = .idle) (hst : ¬(s.st = .init ∨ s.st.inFlight)) :
    State.Inv { s with st := .reset } where
  buffer := h.buffer.of_ne_init (.of_fields rfl rfl rfl rfl) (fun hi => hst (.inl hi)) nofun
  offsets := h.offsets
  lengths := h.lengths
  error := ⟨nofun, fun _ hne => absurd rfl hne⟩
  phase := by simp [State.phaseOk, hp]
  record := State.recordOk_of_idle
    (h.op_eq_idle (ExecState.not_inOperation_of_not_inFlight fun hf => hst (.inr hf)) (.inr (by simp [hp]))) rfl

theorem State.execReset_keeps_inv {s : State} (hInv : s.Inv) (hp : s.phase = .idle) : s.execReset.Inv := by
  by_cases hst : s.st = .init ∨ s.st.inFlight
  · rw [State.execReset_of_rejected hst]
    exact hInv.returnCode hp _
  · rw [State.execReset_of_accepted hst]
    exact (hInv.toReset hp hst).returnCode hp _

/-- The start of a run (40_lifecycle R128). -/
theorem State.Inv.startRun {s : State} (h : s.Inv) (hst : s.st ≠ .init) :
    State.Inv { s.zeroPerRun with st := .executeNext, phase := .decoding } where
  buffer := h.buffer.of_ne_init (.of_fields rfl rfl rfl rfl) hst nofun
  offsets := ⟨le_rfl, Nat.zero_le _, Nat.zero_le _⟩
  lengths := h.lengths
  error := ⟨nofun, fun _ _ => rfl⟩
  phase := rfl
  record := rfl

/-- `HostOp` is invoked again for an operation in progress (40_lifecycle R125). -/
theorem State.Inv.invokeHostOp {s : State} (h : s.Inv) (hst : s.st.inOperation) : s.invokeHostOp.Inv where
  buffer := h.buffer
  offsets := h.offsets
  lengths := h.lengths
  error := h.error
  phase := hst
  record := by
    obtain ⟨hserves, hfits⟩ := h.serves_and_fits hst
    exact State.recordOk_of_serves hserves hfits

theorem State.startExec_keeps_inv {s t : State} (hInv : s.Inv) (hp : s.phase = .idle) (h : s.startExec = .next t) :
    t.Inv := by
  rcases State.startExec_cases h with ⟨-, rfl⟩ | ⟨hst, -, rfl⟩ | ⟨-, rfl⟩ | ⟨hst, rfl⟩ | ⟨hst, rfl⟩
  · exact hInv.returnCode hp _
  · exact hInv.invokeHostOp ((ExecState.inOperation_iff _).mpr hst)
  · exact hInv.returnCode hp _
  · exact hInv.startRun (by rcases hst with hst | hst <;> simp [hst])
  · exact hInv.resumeDecoding hst

theorem State.runCommand_keeps_inv {s t : State} {c : Command} (hInv : s.Inv) (hp : s.phase = .idle)
    (h : s.runCommand c = .next t) : t.Inv := by
  cases c
  case exec => exact State.startExec_keeps_inv hInv hp h
  all_goals cases h
  case hardwareReset => exact s.clear_inv
  case init => exact s.clear_inv.returnCode rfl _
  case load proc lIn => exact State.loadCommand_keeps_inv hInv hp proc lIn
  case execReset => exact State.execReset_keeps_inv hInv hp
  case port call => exact hInv.portCall call

/-! ## Where a step always has a next state (log 22) -/

/-- With a record for the operation in progress, the start of `exec` has a next state. -/
theorem State.startExec_next {s : State} (h : s.st.inOperation → s.op.serves s.st) : ∃ t, s.startExec = .next t := by
  unfold State.startExec
  split
  case h_3 hst | h_4 hst | h_5 hst => exact ⟨_, if_pos (hst ▸ h (by rw [hst]; rfl))⟩
  all_goals exact ⟨_, rfl⟩

theorem State.runCommand_next {s : State} (h : s.st.inOperation → s.op.serves s.st) (c : Command) :
    ∃ t, s.runCommand c = .next t := by
  cases c
  case exec => exact State.startExec_next h
  all_goals exact ⟨_, rfl⟩

/-! ## The statements -/

/-- Settles O2, clause by clause. -/
theorem resetMeetsTheInvariant : Obligations.ResetMeetsTheInvariant := State.reset_inv

/-- Settles O3, by the kinds of steps: a host without a move changes nothing, and taking one of its inputs is not seen
by the invariant. -/
theorem everyStepKeepsTheInvariant : Obligations.EveryStepKeepsTheInvariant := by
  intro s t hInv h
  rcases step_cases h with ⟨-, -, rfl⟩ | ⟨_, _, hp, -, hrun⟩ | ⟨hp, hturn⟩ | ⟨-, -, rfl⟩ | ⟨_, _, hp, -, hans⟩ |
    ⟨_, -, -, rfl⟩ | ⟨pr, ans, _, hp, -, rfl⟩ | ⟨-, -, rfl⟩ | ⟨calls, _, hp, -, rfl⟩
  · exact hInv
  · exact State.runCommand_keeps_inv (s := s.dropCommand) (hInv.withHostSide _ _ _) hp hrun
  · exact State.turn_keeps_inv hInv (hInv.st_of_decoding hp) hturn
  · exact hInv
  · exact State.answerOp_keeps_inv (s := s.dropOpAnswer) (hInv.withHostSide _ _ _) (hInv.st_of_inHostOp hp) hans
  · exact hInv
  · exact State.answerProbe_keeps_inv (s := s.dropProbeAnswer) (hInv.withHostSide _ _ _) (hInv.st_of_inProbe hp) pr ans
  · exact hInv
  · exact State.endReturned_keeps_inv (s := s.dropEndReturn) (hInv.withHostSide _ _ _) (hInv.st_of_inSendEnd hp) calls

/-- Settles O4: the invariant has a record where an operation is resumed or answered. -/
theorem noStopUnderTheInvariant : Obligations.NoStopUnderTheInvariant := by
  intro s hInv
  have hserves : s.st.inOperation → s.op.serves s.st := fun hst => (hInv.serves_and_fits hst).1
  cases hp : s.phase <;> simp only [step, State.cycle, hp]
  case idle =>
    unfold State.idleMove
    split
    · exact ⟨s, rfl⟩
    · exact State.runCommand_next (s := s.dropCommand) hserves _
  case decoding => exact s.turn_next
  case inHostOp =>
    unfold State.opMove
    split
    · exact ⟨s, rfl⟩
    · exact State.answerOp_next (s := s.dropOpAnswer) (hserves (hInv.st_of_inHostOp hp)) _
  case inProbe pr => unfold State.probeMove; split <;> exact ⟨_, rfl⟩
  case inSendEnd => unfold State.endMove; split <;> exact ⟨_, rfl⟩

/-- Settles O5, by induction on the length of the run. -/
theorem runsStayInsideTheInvariant : Obligations.RunsStayInsideTheInvariant := by
  intro n
  induction n with
  | zero => exact fun s hInv => ⟨s, rfl, hInv⟩
  | succ n ih =>
    intro s hInv
    obtain ⟨t, ht⟩ := noStopUnderTheInvariant s hInv
    simp only [runSteps, ht]
    exact ih t (everyStepKeepsTheInvariant s t hInv ht)

end Sys2Proof.Machine

/-! PROOF. The statements about the decoder loop at an instruction, at an unknown byte and at truncated operands
(30_encoding sections 4 and 5, 40_lifecycle R129). What one turn of the loop does at each of them stands first. -/

namespace Sys2Proof.Machine

/-! ## One turn at the bytes the buffer holds -/

theorem State.turn_of_unknownOpcode {s : State} (h : s.decoded = .unknownOpcode) :
    s.turn = .next ((s.beginInstr 1).latch ErrCode.unknownOpcode) := by
  simp only [State.turn, h]

/-- Where the buffer ends with these bytes, the window is exactly them. -/
theorem State.Holds.window_eq {s : State} {bs : List Byte} (h : s.Holds bs) (hlen : bs.length ≤ maxInstrSize)
    (hend : s.progLen.toNat = s.off.toNat + bs.length) : s.window = bs :=
  ((h.prefix_window hlen).eq_of_length (by rw [State.length_window]; omega)).symm

/-- A byte that exists is what the buffer holds at `off`. -/
theorem State.Holds.of_byteAt {s : State} {ib : Byte} (h : s.byteAt s.off.toNat = some ib) : s.Holds [ib] := by
  intro i hi
  obtain rfl : i = 0 := by simpa using hi
  exact h

/-- From the top of the loop a step latches `k` with `p` at the byte at `off` and `off` behind it, and changes nothing
else of the core (decisions D6, D7). -/
def LatchesAtByte (k : Byte) (s : State) : Prop :=
  ∃ t, step s = .next t ∧ Latched k s t ∧ t.p = s.off ∧ t.off.toNat = s.off.toNat + 1 ∧ t.nextOff = s.nextOff ∧
    t.op = s.op ∧ SameRegisters s t ∧ SameProgram s t ∧ SameHostSide s t

theorem LatchesAtByte.of_turn {s : State} {k : Byte} (hp : s.phase = .decoding)
    (hin : s.off.toNat < s.progLen.toNat) (hturn : s.turn = .next ((s.beginInstr 1).latch k)) : LatchesAtByte k s :=
  ⟨_, (step_of_decoding hp).trans hturn, (Latched.latch _ _).congr rfl, rfl,
    State.beginInstr_off_toNat (s := s) (n := 1) hin, rfl, rfl, .of_regs rfl, .of_fields rfl rfl rfl rfl, ⟨rfl, rfl⟩⟩

/-! ## The statements -/

/-- Settles O10: the turn at a decoded instruction, which is of the build's own variant. -/
theorem stepRunsTheDecodedInstruction : Obligations.StepRunsTheDecodedInstruction :=
  fun _ _ _ hp hd => ⟨wellFormed_of_decode hd, (step_of_decoding hp).trans (State.turn_of_instr hd)⟩

/-- Settles O12: the window begins with the byte, whose reserved bits make it unknown. -/
theorem unknownByteIsLatched : Obligations.UnknownByteIsLatched := by
  intro s ib hp hbyte hreserved
  obtain ⟨rest, hwin⟩ := (State.Holds.of_byteAt hbyte).prefix_window (by simp [maxInstrSize])
  have hge : firstReserved s.variant ≤ ib.toNat := by
    rcases hreserved with ⟨hv, hge⟩ | ⟨hv, hge⟩ <;> rw [hv] <;> exact hge
  have hd : s.decoded = .unknownOpcode := by
    rw [State.decoded, ← hwin]
    exact (decode_eq_unknownOpcode_iff s.variant ib rest).mpr hge
  have hin : s.off.toNat < s.progLen.toNat := (s.isSome_byteAt_iff _).mp (by rw [hbyte]; rfl)
  exact LatchesAtByte.of_turn hp hin (State.turn_of_unknownOpcode hd)

/-- Settles O13: the window is the bytes that are left, and they are too few for their row. -/
theorem truncatedOperandsAreLatched : Obligations.TruncatedOperandsAreLatched := by
  intro s i ib ops hp hwf hrow hholds hshort hend
  have hwin := hholds.window_eq (hshort.le.trans (instrSize_le_max i)) hend
  have hd : s.decoded = .truncated := by rw [State.decoded, hwin, decode_eq_truncated hwf hrow hshort]
  have hin : s.off.toNat < s.progLen.toNat := by rw [hend, List.length_cons]; omega
  exact LatchesAtByte.of_turn hp hin (State.turn_of_truncated hd)

end Sys2Proof.Machine

/-! PROOF. The statements about the comparisons, the entry of a WAIT (44_wait) and the instructions of M4
(46_minimal_variant). -/

namespace Sys2Proof.Machine

/-! ## Entering a WAIT (44_wait R202, R203) -/

/-- An instruction that enters a WAIT on the registers of `c` with operator `q`, whose comparison is `isOver`. -/
theorem EntersWait.of_exec {i : Instr} {s : State} {c : Chan} {q : CmpOp} {isOver : Nat → Nat → Prop}
    (hexec : exec i s = .next (s.enterWait (waitRecord c (s.chan c) q)))
    (hcmp : ∀ x y : Byte, cmpBytes q x y = true ↔ isOver x.toNat y.toNat) : EntersWait i s c q.toNat isOver :=
  ⟨_, _, hexec, .enterOp s _ _ _, rfl, rfl, tvTarget_toNat _, rfl, rfl, rfl, rfl, rfl, fun _ => ⟨_, rfl, hcmp _ _⟩⟩

/-! ## The length of an M4 transfer (46_minimal_variant R233) -/

theorem effLenM4_toNat (len : Byte) : (effLenM4 len).toNat = if len.toNat = 0 then 256 else len.toNat := by
  revert len
  decide

/-- The raw length of an M4 record is its length byte. -/
theorem lenRawM4_toNat (len : Byte) : (len.setWidth 16).toNat = len.toNat := BitVec.toNat_setWidth_of_le (by decide)

/-! ## The statements -/

/-- Settles O40, operator by operator. -/
theorem comparisonTable : Obligations.ComparisonTable := by
  intro x y
  refine ⟨?_, ?_, ?_, ?_, ?_, ?_, rfl, rfl⟩
  · simp [cmpBytes, BitVec.toNat_inj]
  · simp [cmpBytes, BitVec.toNat_inj]
  all_goals simp [cmpBytes]

/-- Settles O26, by rows 10 and 11 of the decoder and of the comparison table's first two operators. -/
theorem waitOnEqualityEntersTheOperation : Obligations.WaitOnEqualityEntersTheOperation := by
  refine ⟨fun c ops => ⟨decode_mkinst 10 c ops, decode_mkinst 11 c ops⟩, fun s c => ⟨?_, ?_⟩⟩
  · exact .of_exec (q := 0) rfl fun x y => (comparisonTable x y).1
  · exact .of_exec (q := 1) rfl fun x y => (comparisonTable x y).2.1

/-- Settles O27, by rows 12 to 15 of the decoder and the operators of the comparison table on order. -/
theorem waitOnOrderEntersTheOperation : Obligations.WaitOnOrderEntersTheOperation := by
  refine ⟨fun c ops => ⟨decode_mkinst 12 c ops, decode_mkinst 13 c ops, decode_mkinst 14 c ops, decode_mkinst 15 c ops⟩,
    fun s c => ⟨.of_exec (q := 3) rfl fun x y => ?_, .of_exec (q := 5) rfl fun x y => ?_,
      .of_exec (q := 4) rfl fun x y => ?_, .of_exec (q := 2) rfl fun x y => ?_⟩⟩
  all_goals obtain ⟨-, -, hlt, hge, hgt, hle, -⟩ := comparisonTable x y
  · exact hge
  · exact hle
  · exact hgt
  · exact hlt

/-- Settles O28: the two transfers with the record of their operands, and the two ways of entering a WRITE. -/
theorem minimalTransfersEnterTheOperation : Obligations.MinimalTransfersEnterTheOperation := by
  intro s chip address len
  have hlen : (writeRecordM4 chip address len s.off).length.toNat = if len.toNat = 0 then 256 else len.toNat :=
    effLenM4_toNat len
  rw [← hlen]
  refine ⟨?_, fun hfits => ?_, fun hshort => ?_⟩
  · exact ⟨_, readRecordM4 chip address len, rfl, .enterOp s _ _ _, rfl, rfl, rfl, rfl, rfl, rfl,
      lenRawM4_toNat len, rfl⟩
  · exact ⟨_, _, rfl, .enterWrite hfits, rfl, rfl, rfl, rfl, rfl, rfl, lenRawM4_toNat len, rfl, rfl⟩
  · exact ⟨_, congrArg Host.Outcome.next (State.enterWrite_of_truncated hshort), .latch _ _, ⟨rfl, rfl, rfl⟩, rfl,
      .of_regs rfl, .of_fields rfl rfl rfl rfl, ⟨rfl, rfl⟩⟩

/-- Settles O29, by the entry of an operation with the record of the operands. -/
theorem minimalWaitEntersTheOperation : Obligations.MinimalWaitEntersTheOperation :=
  fun s q chip address value mask => ⟨_, waitRecordM4 q chip address value mask, rfl, .enterOp s _ _ _, rfl, rfl, rfl,
    rfl, rfl, rfl, rfl, rfl, fun _ => rfl⟩

/-- Settles O30, by what invoking a probe does (O37). -/
theorem minimalAbortProbesOnce : Obligations.MinimalAbortProbesOnce :=
  fun s _ _ _ _ _ => ⟨_, rfl, probeAnswerDecidesTheAbort.1 s _⟩

end Sys2Proof.Machine

/-! PROOF. The statements about whole operations: the completion of a WRITE, a transfer completed at its first
invocation, M4's ABORT_UNLESS to its end, and the return of `SendEnd`. -/

namespace Sys2Proof.Machine

/-! ## The address after a write-back (10_state R24) -/

theorem WritesBack.a_toNat_eq {s t : State} {upd : Bool} {c : Chan} {a : Addr} {l : BitVec 17}
    (h : WritesBack s t upd c a l) :
    (t.chan c).a.toNat = if upd then (a.toNat + l.toNat) % 2 ^ 24 else (s.chan c).a.toNat := by
  cases upd
  · rw [h.sameRegisters c]
    rfl
  · exact h.a_toNat

/-- The write-back sees the registers alone. -/
theorem WritesBack.congr {s s' t : State} {upd : Bool} {c : Chan} {a : Addr} {l : BitVec 17}
    (h : WritesBack s' t upd c a l) (hregs : SameRegisters s s') : WritesBack s t upd c a l := by
  obtain ⟨hchan, hother⟩ := h
  exact ⟨hregs c ▸ hchan, fun d hd => (hother d hd).trans (hregs d)⟩

/-- The write-back of a record built from a channel's registers advances the channel's address. -/
theorem WritesBack.advances {s t : State} {c : Chan}
    (h : WritesBack s t (tvUpd (s.chan c).tv) c (s.chan c).a (effLen (s.chan c).len)) :
    SameOtherChannels c s t ∧ t.chan c = { s.chan c with a := (t.chan c).a } ∧
      (t.chan c).a.toNat = if (s.chan c).tv.getLsbD 6 then ((s.chan c).a.toNat + channelLength (s.chan c)) % 2 ^ 24
        else (s.chan c).a.toNat :=
  ⟨h.2, h.chan_eq c, by rw [← effLen_toNat]; exact h.a_toNat_eq⟩

/-- The step that takes the answer COMPLETED, by O31. -/
theorem step_of_completed {s : State} {ans : OpAnswer} {more : List OpAnswer} (hp : s.phase = .inHostOp)
    (ha : s.host.opAnswers = ans :: more) (hs : s.op.serves s.st) (he : ans.err = 0) (hc : ans.opstate = .completed) :
    ∃ t, step s = .next t ∧ SameProgram s t ∧ t.off = s.nextOff ∧ t.st = .executeNext ∧ t.phase = .idle ∧
      t.op = .idle ∧ t.events.head? = some (.returned 0) ∧ WritesBackRecord s t := by
  obtain ⟨t, hstep, ⟨hprog, -⟩, -, -, hdone, -⟩ := hostOpAnswerResumesTheOperation s ans more hp ha hs
  obtain ⟨hst, hop, hoff, -, hphase, hevents, hback⟩ := hdone he hc
  exact ⟨t, hstep, hprog, hoff, hst, hphase, hop, by rw [hevents]; rfl, hback⟩

/-! ## The statements -/

/-- Settles O34: the invariant has `next_off` at the end of the payload, inside the buffer. -/
theorem writeCompletionSkipsThePayload : Obligations.WriteCompletionSkipsThePayload := by
  intro s wr ans more hInv hp hop ha he hc
  have hserves := (hInv.serves_and_fits (hInv.st_of_inHostOp hp)).1
  obtain ⟨t, hstep, ⟨-, -, hlen, -⟩, hoff, hst, -, hop', -, -, hback, -⟩ := step_of_completed hp ha hserves he hc
  obtain ⟨hstart, hnext⟩ := hInv.write_span hop
  obtain ⟨-, -, hle⟩ := hInv.offsets
  exact ⟨t, hstep, by rw [hoff, hnext, hstart], by rw [hoff, hlen]; exact hle, hst, hop', (hback wr hop).2,
    (hback wr hop).a_toNat_eq⟩

/-- Settles O35: the entry of the operation leaves the registers, and its completion writes the address back. -/
theorem transferCompletedAtOnceAdvancesTheAddress : Obligations.TransferCompletedAtOnceAdvancesTheAddress := by
  intro s c ans more ha he hc
  refine ⟨?_, fun hfits => ?_⟩
  · obtain ⟨u, hstep, -, hoff, hst, hphase, hop, hevents, hback, -⟩ :=
      step_of_completed (s := s.enterRead (readRecord c (s.chan c))) rfl ha rfl he hc
    exact ⟨_, u, rfl, hstep, hoff, hst, hphase, hop, hevents, WritesBack.advances (s := s) (hback _ rfl)⟩
  · have hlen : (writeRecord c (s.chan c) s.off).length.toNat = channelLength (s.chan c) := effLen_toNat _
    rw [← hlen] at hfits
    obtain ⟨hop, hnext, hst, hphase, -, -, -, -, hregs, -, -, hhost⟩ := Enters.enterWrite hfits
    obtain ⟨u, hstep, -, hoff, hst', hphase', hop', hevents, -, hback, -⟩ :=
      step_of_completed hphase (hhost ▸ ha) (by rw [hop, hst]; rfl) he hc
    exact ⟨_, u, rfl, hstep, by rw [hoff, hnext, hlen], hst', hphase', hop', hevents,
      ((hback _ hop).congr hregs).advances⟩

/-- Settles O38: the probe writes nothing, and O37 gives the three answers. -/
theorem abortUnlessGoesOnOrAborts : Obligations.AbortUnlessGoesOnOrAborts := by
  intro s q chip address value mask ans more ha
  obtain ⟨u, hstep, ⟨hprog, hp, hnext, -⟩, -, hoff, hop, hregs, herr, hok⟩ :=
    probeAnswerDecidesTheAbort.2 (s.invokeProbe ⟨.abortUnless, q, chip, address, value, mask⟩) _ ans more rfl ha
  refine ⟨_, u, rfl, hstep, ⟨hoff, hp, hnext⟩, hregs, hprog, hop, fun he hgo => ?_, fun he hab => ?_, fun he => ?_⟩
  · obtain ⟨hphase, hst, hcode, -⟩ := (hok he).2 (.inl ⟨rfl, hgo⟩)
    exact ⟨hphase, hst, hcode⟩
  · obtain ⟨hcode, hst, -, hphase, -⟩ := (hok he).1 (.inl ⟨rfl, hab⟩)
    exact ⟨hphase, hst, hcode⟩
  · obtain ⟨hcode, hst, -, hphase, -⟩ := herr he
    exact ⟨hphase, hst, hcode⟩

/-- Settles O39, by what the return of `SendEnd` does. -/
theorem sendEndReturnGivesTheLatchedResult : Obligations.SendEndReturnGivesTheLatchedResult := by
  intro s calls more hp ha
  obtain ⟨huser, hevents⟩ := State.portCalls_congr calls s.dropEndReturn s rfl rfl rfl
  refine ⟨_, step_of_endReturn hp ha, ⟨s.dropEndReturn.endReturned_sameProgram calls, ?_, ?_, huser⟩, ?_⟩
  · simp [State.endReturned]
  · simp [State.endReturned]
  · refine ⟨by simp, ?_, ?_, rfl, .of_regs ?_, rfl, ?_, ?_⟩ <;>
      simp [State.endReturned, State.latchedResult, ErrCode.success, hevents, ha]

end Sys2Proof.Machine

/-! PROOF. The statements about the commands (40_lifecycle): `exec` without a run, `exec_reset`, `load` and the hardware
reset. -/

namespace Sys2Proof.Machine

/-- A command that returns a code and does nothing else. -/
theorem OnlyReturns.of_runCommand {s : State} {c : Command} {cs : List Command} {code : Byte} (h : Issues s c cs)
    (hrun : State.runCommand { s with host := { s.host with commands := cs } } c =
      .next (State.returnCode { s with host := { s.host with commands := cs } } code)) : OnlyReturns s cs code := by
  rw [OnlyReturns, step_of_issues h, hrun, State.returnCode, ← h.1]

theorem State.startExec_of_terminal {s : State} (h : s.st = .errored ∨ s.st = .ended) :
    s.startExec = .next (s.returnCode s.latchedResult) := by
  rcases h with h | h <;> simp only [State.startExec, h]

theorem State.startExec_of_init {s : State} (h : s.st = .init) :
    s.startExec = .next (s.returnCode ErrCode.invalidOperationForState) := by
  simp only [State.startExec, h]

/-! The three branches of `load` (40_lifecycle R121). -/

theorem State.loadCommand_of_ne_init {s : State} (h : s.st ≠ .init) (proc : Option (List Host.Cell)) (lIn : Offset) :
    s.loadCommand proc lIn = s.returnCode ErrCode.invalidOperationForState := if_neg h

theorem State.loadCommand_of_absent {s : State} (h : s.st = .init) (lIn : Offset) :
    s.loadCommand none lIn = s.returnCode ErrCode.outOfRange := if_pos h

theorem State.loadCommand_of_init {s : State} (h : s.st = .init) (cells : List Host.Cell) (lIn : Offset) :
    s.loadCommand (some cells) lIn = State.returnCode
      { s with procPresent := true, buf := Memory.ofCells lIn.toNat cells, progLen := lIn, st := .loaded }
      ErrCode.success := if_pos h

/-! ## The statements -/

/-- Settles O42, by the start of `exec` in the three states; the codes are computed. -/
theorem execWithoutARunOnlyReturns : Obligations.ExecWithoutARunOnlyReturns := by
  refine ⟨fun s cs h => ⟨fun hst => ?_, fun hst => ?_, fun hst => ?_⟩, by decide, by decide, by decide⟩
  · have hcode : s.latchedResult = s.e := if_pos hst
    rw [← hcode]
    exact .of_runCommand h (State.startExec_of_terminal (.inl hst))
  · have hcode : s.latchedResult = 0 := if_neg (by simp [hst])
    rw [← hcode]
    exact .of_runCommand h (State.startExec_of_terminal (.inr hst))
  · exact .of_runCommand h (State.startExec_of_init hst)

/-- Settles O45, by the two outcomes of `exec_reset`. -/
theorem execResetReturnsToReset : Obligations.ExecResetReturnsToReset := by
  refine fun s cs h => ⟨fun hst => ?_, fun hst => ?_⟩
  · exact .of_runCommand h (congrArg Host.Outcome.next (State.execReset_of_rejected hst))
  · rw [step_of_issues h, State.runCommand, State.execReset_of_accepted (by exact hst), State.returnCode, ← h.1]
    rfl

/-- Settles O46, by the branches of `load`; the bytes of the canonical buffer are the bytes given. -/
theorem loadRecordsTheBuffer : Obligations.LoadRecordsTheBuffer := by
  refine fun s cs proc lIn h => ⟨fun hst => ?_, fun hst hproc => ?_, fun hst cells hproc => ?_⟩
  · exact .of_runCommand h (congrArg Host.Outcome.next (State.loadCommand_of_ne_init (by exact hst) proc lIn))
  · subst hproc
    exact .of_runCommand h (congrArg Host.Outcome.next (State.loadCommand_of_absent (by exact hst) lIn))
  · subst hproc
    rw [step_of_issues h, State.runCommand, State.loadCommand_of_init (by exact hst)]
    exact ⟨_, rfl, rfl, rfl, rfl, State.byteAt_of_loaded rfl, rfl, rfl, ⟨rfl, rfl, rfl⟩, .of_regs rfl, rfl, rfl, rfl,
      rfl, rfl⟩

/-- Settles O48, by the definition of the command. -/
theorem hardwareResetIsInit : Obligations.HardwareResetIsInit := fun _ _ h => step_of_issues h

end Sys2Proof.Machine

/-! PROOF. The statements about what a step may write: the registers, the variant and `userdata`. What a command and the
calls from inside a callback write of them stands first. -/

namespace Sys2Proof.Machine

/-! ## What a command and a call may write -/

/-- A command clears the state, is a call of the host, or leaves the registers, the variant and `userdata`. -/
theorem State.runCommand_cases {s t : State} {c : Command} (h : s.runCommand c = .next t) :
    ((c = .init ∨ c = .hardwareReset) ∧ t.regs = RegFile.reset ∧ t.variant = s.variant) ∨
    (∃ call, c = .port call ∧ t = s.portCall call) ∨
    (t.regs = s.regs ∧ t.variant = s.variant ∧ t.userdata = s.userdata) := by
  cases c
  case hardwareReset => cases h; exact .inl ⟨.inr rfl, rfl, rfl⟩
  case init => cases h; exact .inl ⟨.inl rfl, rfl, rfl⟩
  case load proc lIn =>
    cases h
    rcases s.loadCommand_cases proc lIn with ⟨_, ht⟩ | ⟨-, _, -, ht⟩ <;> rw [ht] <;>
      exact .inr (.inr ⟨rfl, rfl, rfl⟩)
  case execReset =>
    cases h
    rcases s.execReset_cases with ⟨_, ht⟩ | ht <;> rw [ht] <;> exact .inr (.inr ⟨rfl, rfl, rfl⟩)
  case exec =>
    rcases State.startExec_cases h with ⟨-, rfl⟩ | ⟨-, -, rfl⟩ | ⟨-, rfl⟩ | ⟨-, rfl⟩ | ⟨-, rfl⟩ <;>
      exact .inr (.inr ⟨rfl, rfl, rfl⟩)
  case port call => cases h; exact .inr (.inl ⟨call, rfl, rfl⟩)

/-- Of the commands only `init` and the hardware reset write the registers. -/
theorem State.runCommand_regs {s t : State} {c : Command} (h : s.runCommand c = .next t) :
    t.regs = s.regs ∨ (t.regs = RegFile.reset ∧ (c = .init ∨ c = .hardwareReset)) := by
  rcases State.runCommand_cases h with ⟨hc, hregs, -⟩ | ⟨call, -, rfl⟩ | ⟨hregs, -⟩
  · exact .inr ⟨hregs, hc⟩
  · exact .inl (by simp)
  · exact .inl hregs

theorem State.runCommand_variant {s t : State} {c : Command} (h : s.runCommand c = .next t) :
    t.variant = s.variant := by
  rcases State.runCommand_cases h with ⟨-, -, hv⟩ | ⟨call, -, rfl⟩ | ⟨-, hv, -⟩
  · exact hv
  · simp
  · exact hv

/-- A call leaves `userdata` or sets it. -/
theorem State.portCall_userdata (s : State) (call : PortCall) :
    (s.portCall call).userdata = s.userdata ∨ call = .setUserdata (s.portCall call).userdata := by
  cases call
  case setUserdata v => exact .inr rfl
  all_goals exact .inl rfl

/-- Calls made one after another leave `userdata` or hold a `set_userdata` with the value they leave. -/
theorem State.portCalls_userdata (calls : List PortCall) : ∀ s : State,
    (s.portCalls calls).userdata = s.userdata ∨ .setUserdata (s.portCalls calls).userdata ∈ calls := by
  induction calls with
  | nil => exact fun s => .inl rfl
  | cons call calls ih =>
    intro s
    rcases ih (s.portCall call) with hrest | hmem
    · rcases s.portCall_userdata call with hcall | hcall
      · exact .inl (hrest.trans hcall)
      · exact .inr (List.mem_cons.mpr (.inl (by rw [State.portCalls, hrest]; exact hcall.symm)))
    · exact .inr (List.mem_cons_of_mem call hmem)

/-- A step that makes these calls and changes `userdata` makes a `set_userdata` with the new value. -/
theorem MakesCalls.setUserdata_mem {s t : State} {calls : List PortCall} (h : MakesCalls s calls t)
    (hne : t.userdata ≠ s.userdata) : .setUserdata t.userdata ∈ calls := by
  have huser := h.1
  rw [huser] at hne ⊢
  exact (State.portCalls_userdata calls s).resolve_left hne

/-- A turn of the decoder loop leaves `userdata`. -/
theorem State.turn_userdata {s t : State} (h : s.turn = .next t) : t.userdata = s.userdata := by
  rcases State.turn_cases h with ⟨-, rfl⟩ | ⟨-, rfl⟩ | ⟨-, rfl⟩ | ⟨_, _, -, he⟩
  case inr.inr.inr =>
    obtain ⟨-, ⟨huser, -⟩, -⟩ := exec_frame he
    exact huser
  all_goals rfl

/-! ## What the answers write of the registers -/

/-- An answer to `HostOp` that does not complete the operation leaves the registers. -/
theorem State.answerOp_regs {s t : State} {ans : OpAnswer} (h : s.answerOp ans = .next t) :
    t.regs = s.regs ∨ (t.st = .executeNext ∧ WritesBackRecord s t) := by
  by_cases he : ans.err = 0
  · by_cases hc : ans.opstate = .completed
    · obtain ⟨hst, -, -, -, -, -, hback⟩ := State.answerOp_completed h he hc
      exact .inr ⟨hst, hback⟩
    · obtain ⟨-, -, -, -, -, -, hregs⟩ := State.answerOp_inProgress h he hc
      exact .inl hregs.regs_eq
  · obtain ⟨-, -, -, hregs⟩ := State.answerOp_error h he
    exact .inl hregs.regs_eq

/-- The records of M4 have UPD 0, so their completion writes no register (46_minimal_variant R233). -/
theorem WritesBackRecord.sameRegisters_of_m4 {s t : State} (h : WritesBackRecord s t)
    (hfits : s.op.Fits .m4 s.off s.nextOff) : SameRegisters s t := by
  obtain ⟨hread, hwrite, hwait⟩ := h
  cases hop : s.op <;> rw [hop] at hfits
  case idle => exact hfits.elim
  case read rd =>
    obtain ⟨-, -, -, -, hupd⟩ := hfits
    exact (hupd ▸ hread rd hop).sameRegisters
  case write wr =>
    obtain ⟨-, -, -, -, -, hupd⟩ := hfits
    exact (hupd ▸ hwrite wr hop).sameRegisters
  case wait wa => exact hwait wa hop

/-- In M4 a turn of the decoder loop leaves the registers: a SET is no instruction of the build. -/
theorem State.turn_regs_of_m4 {s t : State} (hv : s.variant = .m4) (h : s.turn = .next t) : t.regs = s.regs := by
  rcases State.turn_cases h with ⟨-, rfl⟩ | ⟨-, rfl⟩ | ⟨-, rfl⟩ | ⟨i, _, hd, he⟩
  case inr.inr.inr =>
    rcases exec_regs_cases he with hregs | ⟨_, _, -, -, hc16, -⟩
    · exact hregs
    · have hwf : i.variant = s.variant := wellFormed_of_decode hd
      rw [hv, hc16] at hwf
      cases hwf
  all_goals rfl

/-! ## The statements -/

/-- Settles O57: a step leaves the whole program, or is a command, and no command writes the variant. -/
theorem variantNeverChanges : Obligations.VariantNeverChanges := by
  intro s t h
  rcases step_sameProgram_or_command h with ⟨hv, -⟩ | ⟨c, cs, -, hrun⟩
  · exact hv
  · exact State.runCommand_variant (s := s.dropCommand) hrun

/-- Settles O54, by the kinds of steps. -/
theorem onlyTheProcedureWritesRegisters : Obligations.OnlyTheProcedureWritesRegisters := by
  intro s t h
  rcases step_cases h with ⟨-, -, rfl⟩ | ⟨c, _, hp, hc, hrun⟩ | ⟨hp, -⟩ | ⟨-, -, rfl⟩ | ⟨_, _, hp, -, hans⟩ |
    ⟨_, -, -, rfl⟩ | ⟨pr, ans, _, -, -, rfl⟩ | ⟨-, -, rfl⟩ | ⟨_, _, -, -, rfl⟩
  · exact .inl (.of_regs rfl)
  · rcases State.runCommand_regs hrun with hregs | ⟨hregs, hcause⟩
    · exact .inl (.of_regs hregs)
    · exact .inr (.inr (.inr ⟨hp, hregs, by simpa [hc] using hcause⟩))
  · exact .inr (.inl hp)
  · exact .inl (.of_regs rfl)
  · rcases State.answerOp_regs hans with hregs | ⟨hst, -⟩
    · exact .inl (.of_regs hregs)
    · exact .inr (.inr (.inl ⟨hp, hst⟩))
  · exact .inl (.of_regs rfl)
  · obtain ⟨-, -, -, hregs⟩ := s.dropProbeAnswer.answerProbe_frame pr ans
    exact .inl hregs
  · exact .inl (.of_regs rfl)
  · exact .inl (.of_regs (by simp [State.endReturned]))

/-- Settles O56: of the steps that may write a register (O54) a turn runs no SET, and a completion writes nothing
back. -/
theorem minimalVariantLeavesTheRegisters : Obligations.MinimalVariantLeavesTheRegisters := by
  intro s t hInv hv h
  rcases onlyTheProcedureWritesRegisters s t h with hregs | hp | ⟨hp, -⟩ | ⟨hp, -, hcause⟩
  · exact .inl hregs
  · rw [step_of_decoding hp] at h
    exact .inl (.of_regs (State.turn_regs_of_m4 hv h))
  · obtain ⟨-, hfits⟩ := hInv.serves_and_fits (hInv.st_of_inHostOp hp)
    rw [hv] at hfits
    rcases step_cases h with ⟨hp', -⟩ | ⟨_, _, hp', -⟩ | ⟨hp', -⟩ | ⟨-, -, rfl⟩ | ⟨_, _, -, -, hans⟩ | ⟨_, hp', -⟩ |
      ⟨_, _, _, hp', -⟩ | ⟨hp', -⟩ | ⟨_, _, hp', -⟩
    case inr.inr.inr.inl => exact .inl (.of_regs rfl)
    case inr.inr.inr.inr.inl =>
      rcases State.answerOp_regs hans with hregs | ⟨-, hback⟩
      · exact .inl (.of_regs hregs)
      · exact .inl (WritesBackRecord.sameRegisters_of_m4 (s := s.dropOpAnswer) hback hfits)
    all_goals rw [hp] at hp'; cases hp'
  · exact .inr ⟨hp, hcause⟩

/-- Settles O58: a command writes `userdata` by clearing it or as the call itself, an answer by a call that came with
it, and a turn not at all. -/
theorem userdataIsTheHosts : Obligations.UserdataIsTheHosts := by
  intro s t h hne
  rcases step_cases h with ⟨-, -, rfl⟩ | ⟨c, _, hp, hc, hrun⟩ | ⟨-, hturn⟩ | ⟨-, -, rfl⟩ | ⟨ans, _, hp, ha, -⟩ |
    ⟨_, -, -, rfl⟩ | ⟨pr, ans, _, hp, ha, -⟩ | ⟨-, -, rfl⟩ | ⟨calls, _, hp, ha, -⟩
  · exact absurd rfl hne
  · refine .inl ⟨hp, ?_⟩
    rw [hc]
    rcases State.runCommand_cases hrun with ⟨rfl | rfl, -⟩ | ⟨call, rfl, rfl⟩ | ⟨-, -, huser⟩
    · exact .inl rfl
    · exact .inr (.inl rfl)
    · exact .inr (.inr (congrArg (some ∘ Command.port) ((s.dropCommand.portCall_userdata call).resolve_left hne)))
    · exact absurd huser hne
  · exact absurd (State.turn_userdata hturn) hne
  · exact absurd rfl hne
  · have hcalls := step_makesCalls h (.inl ⟨hp, by rw [ha]; rfl⟩)
    exact .inr (.inl ⟨hp, ans, by rw [ha]; rfl, hcalls.setUserdata_mem hne⟩)
  · exact absurd rfl hne
  · have hcalls := step_makesCalls h (.inr (.inl ⟨⟨pr, hp⟩, by rw [ha]; rfl⟩))
    exact .inr (.inr (.inl ⟨⟨pr, hp⟩, ans, by rw [ha]; rfl, hcalls.setUserdata_mem hne⟩))
  · exact absurd rfl hne
  · have hcalls := step_makesCalls h (.inr (.inr ⟨hp, by rw [ha]; rfl⟩))
    exact .inr (.inr (.inr ⟨hp, calls, by rw [ha]; rfl, hcalls.setUserdata_mem hne⟩))

end Sys2Proof.Machine
